-- ==== Sys2Proof/Word.lean ====
section
/-! DEFINITION. The word types of the CHIP-8 interpreter core: 8-bit data, 16-bit addresses and opcodes,
register numbers, key codes and screen coordinates (spec 00_scope.md R6, R8; every quantity is unsigned). -/

namespace Sys2Proof

/-- A byte: a memory cell, a general register, a timer (R6). -/
abbrev Byte := BitVec 8

/-- A 16-bit address: the program counter, the index register, a stack slot (R6, R14, R15, R18). -/
abbrev Addr := BitVec 16

/-- A 16-bit instruction word (R60). -/
abbrev Opcode := BitVec 16

/-- A general register's number, V0 to VF (R10). -/
abbrev Reg := Fin 16

/-- A key code, 0 to 15 (R209). -/
abbrev Key := Fin 16

/-- A pixel: column 0 to 63, row 0 to 31 (R206). -/
abbrev Pixel := Fin 64 × Fin 32

end Sys2Proof
end

