-- ==== Sys2Proof/Config.lean ====
section
/-! DEFINITION. What is fixed for the machine (the parameters of spec 00_scope.md R6) and the free values:
the replies of the random source, the input collaborator and the framebuffer, which no rule constrains (R7). -/

namespace Sys2Proof.Config

/-- `MEM_SIZE` (R6): the number of bytes of memory. -/
def memSize : Nat := 4096

/-- The highest address of memory (R40). -/
def lastAddr : Nat := 4095

/-- `PROG_BASE` (R6): the load address and the reset value of the program counter. -/
def progBase : Nat := 0x200

/-- The longest program image `LoadProgram` accepts (R7, R92). -/
def maxImage : Nat := 3584

/-- The random byte of the draw number `k` for which the environment has supplied no byte.
FREE VALUE (R123, R212; notes/assumptions/21.md): any byte is possible at every draw. -/
opaque freeRandomByte : Nat → Byte

/-- The reply to the `isPressed` query number `k` for which the environment has supplied none.
FREE VALUE (R209; notes/assumptions/22.md): any boolean is possible at every query. -/
opaque freeKeyReply : Nat → Bool

/-- The reply to the `toggle` request number `k` for which the environment has supplied none.
FREE VALUE (R206, 93_implementation_defined.md U6; notes/assumptions/23.md). -/
opaque freeToggleReply : Nat → Bool

end Sys2Proof.Config
end

