-- ==== Sys2Proof/Syntax.lean ====
section
/-! DEFINITION. The 34 instructions of the core, one constructor per row of spec/opcode_table.json, in the table's
order (spec 30_encoding.md R65, R66). Operand fields carry the widths of R62: X and Y a register number, N four
bits, NN eight, NNN twelve. -/

namespace Sys2Proof

/-- The instruction set (R66). -/
inductive Instr where
  /-- `00E0` clear-screen (R191). -/
  | clearScreen
  /-- `00EE` return (R101). -/
  | ret
  /-- `1NNN` jump NNN (R102). -/
  | jump (nnn : BitVec 12)
  /-- `2NNN` call NNN (R103). -/
  | call (nnn : BitVec 12)
  /-- `3XNN` skip-if-equal Vx,NN (R105). -/
  | skipEqImm (x : Reg) (nn : Byte)
  /-- `4XNN` skip-if-not-equal Vx,NN (R106). -/
  | skipNeImm (x : Reg) (nn : Byte)
  /-- `5XY0` skip-if-equal Vx,Vy (R107). -/
  | skipEqReg (x y : Reg)
  /-- `6XNN` load Vx,NN (R121). -/
  | loadImm (x : Reg) (nn : Byte)
  /-- `7XNN` add Vx,NN (R122). -/
  | addImm (x : Reg) (nn : Byte)
  /-- `8XY0` copy Vx,Vy (R131). -/
  | copy (x y : Reg)
  /-- `8XY1` OR Vx,Vy (R132). -/
  | orReg (x y : Reg)
  /-- `8XY2` AND Vx,Vy (R133). -/
  | andReg (x y : Reg)
  /-- `8XY3` XOR Vx,Vy (R134). -/
  | xorReg (x y : Reg)
  /-- `8XY4` add-with-carry Vx,Vy (R135). -/
  | addCarry (x y : Reg)
  /-- `8XY5` sub-with-borrow Vx,Vy (R136). -/
  | subBorrow (x y : Reg)
  /-- `8XY6` shift-right Vx (R137). The field Y is decoded and has no effect (R67). -/
  | shiftRight (x y : Reg)
  /-- `8XY7` reverse-subtract Vx,Vy (R138). -/
  | reverseSub (x y : Reg)
  /-- `8XYE` shift-left Vx (R139). The field Y is decoded and has no effect (R67). -/
  | shiftLeft (x y : Reg)
  /-- `9XY0` skip-if-not-equal Vx,Vy (R108). -/
  | skipNeReg (x y : Reg)
  /-- `ANNN` load-index NNN (R151). -/
  | loadIndex (nnn : BitVec 12)
  /-- `BNNN` jump NNN+V0 (R104). -/
  | jumpV0 (nnn : BitVec 12)
  /-- `CXNN` random Vx,NN (R123). -/
  | random (x : Reg) (nn : Byte)
  /-- `DXYN` draw Vx,Vy,N (R192). -/
  | draw (x y : Reg) (n : BitVec 4)
  /-- `EX9E` skip-if-key-pressed Vx (R174). -/
  | skipKey (x : Reg)
  /-- `EXA1` skip-if-key-not-pressed Vx (R175). -/
  | skipNotKey (x : Reg)
  /-- `FX07` load-delay Vx (R171). -/
  | loadDelay (x : Reg)
  /-- `FX0A` wait-for-key Vx (R176). -/
  | waitKey (x : Reg)
  /-- `FX15` store-delay Vx (R172). -/
  | storeDelay (x : Reg)
  /-- `FX18` store-sound Vx (R173). -/
  | storeSound (x : Reg)
  /-- `FX1E` add-index Vx (R152). -/
  | addIndex (x : Reg)
  /-- `FX29` load-sprite-address Vx (R153). -/
  | loadSpriteAddr (x : Reg)
  /-- `FX33` store-BCD Vx (R154). -/
  | storeBcd (x : Reg)
  /-- `FX55` store-registers Vx (R155). -/
  | storeRegs (x : Reg)
  /-- `FX65` load-registers Vx (R156). -/
  | loadRegs (x : Reg)
  deriving DecidableEq, Repr

end Sys2Proof
end

