-- ==== Sys2Proof/WellFormed.lean ====
section
/-! DEFINITION. Well-formedness. The operand types of Syntax.lean admit only the ranges of spec 30_encoding.md R62, so
every instruction term is well formed; what can be ill formed is a 16-bit word (R68: a word no row of the opcode
map selects) and a program image (R92: longer than the memory above 0x200). The rows of the map are written here as
`match` and `mask` (R65), independently of the decoder of Decode.lean. -/

namespace Sys2Proof

/-- One row of the opcode map (R66): `op` selects the row iff `op AND mask = match`. -/
structure OpcodeRow where
  /-- The column `match` of R66. -/
  pattern : Opcode
  /-- The column `mask` of R66. -/
  mask : Opcode
  deriving DecidableEq, Repr

/-- The selection rule of R65. -/
def OpcodeRow.selects (r : OpcodeRow) (op : Opcode) : Bool := op &&& r.mask == r.pattern

/-- The opcode map, rows 1 to 17 of R66. -/
def opcodeRowsLow : List OpcodeRow :=
  [⟨0x00E0, 0xFFFF⟩, ⟨0x00EE, 0xFFFF⟩, ⟨0x1000, 0xF000⟩, ⟨0x2000, 0xF000⟩, ⟨0x3000, 0xF000⟩, ⟨0x4000, 0xF000⟩,
   ⟨0x5000, 0xF00F⟩, ⟨0x6000, 0xF000⟩, ⟨0x7000, 0xF000⟩, ⟨0x8000, 0xF00F⟩, ⟨0x8001, 0xF00F⟩, ⟨0x8002, 0xF00F⟩,
   ⟨0x8003, 0xF00F⟩, ⟨0x8004, 0xF00F⟩, ⟨0x8005, 0xF00F⟩, ⟨0x8006, 0xF00F⟩, ⟨0x8007, 0xF00F⟩]

/-- The opcode map, rows 18 to 34 of R66. -/
def opcodeRowsHigh : List OpcodeRow :=
  [⟨0x800E, 0xF00F⟩, ⟨0x9000, 0xF00F⟩, ⟨0xA000, 0xF000⟩, ⟨0xB000, 0xF000⟩, ⟨0xC000, 0xF000⟩, ⟨0xD000, 0xF000⟩,
   ⟨0xE09E, 0xF0FF⟩, ⟨0xE0A1, 0xF0FF⟩, ⟨0xF007, 0xF0FF⟩, ⟨0xF00A, 0xF0FF⟩, ⟨0xF015, 0xF0FF⟩, ⟨0xF018, 0xF0FF⟩,
   ⟨0xF01E, 0xF0FF⟩, ⟨0xF029, 0xF0FF⟩, ⟨0xF033, 0xF0FF⟩, ⟨0xF055, 0xF0FF⟩, ⟨0xF065, 0xF0FF⟩]

/-- The opcode map: the 34 rows of R66. -/
def opcodeTable : List OpcodeRow := opcodeRowsLow ++ opcodeRowsHigh

/-- A word is well formed when some row of the map selects it; every other word is illegal (R68). -/
def opcodeWellFormed (op : Opcode) : Bool := opcodeTable.any fun r => r.selects op

/-- A program image is well formed when it fits between 0x200 and the end of memory (R92). -/
def imageWellFormed (image : List Byte) : Bool := image.length ≤ Config.maxImage

/-- The row of the map that is an instruction's own (R66). -/
def Instr.row : Instr → OpcodeRow
  | .clearScreen => ⟨0x00E0, 0xFFFF⟩
  | .ret => ⟨0x00EE, 0xFFFF⟩
  | .jump _ => ⟨0x1000, 0xF000⟩
  | .call _ => ⟨0x2000, 0xF000⟩
  | .skipEqImm _ _ => ⟨0x3000, 0xF000⟩
  | .skipNeImm _ _ => ⟨0x4000, 0xF000⟩
  | .skipEqReg _ _ => ⟨0x5000, 0xF00F⟩
  | .loadImm _ _ => ⟨0x6000, 0xF000⟩
  | .addImm _ _ => ⟨0x7000, 0xF000⟩
  | .copy _ _ => ⟨0x8000, 0xF00F⟩
  | .orReg _ _ => ⟨0x8001, 0xF00F⟩
  | .andReg _ _ => ⟨0x8002, 0xF00F⟩
  | .xorReg _ _ => ⟨0x8003, 0xF00F⟩
  | .addCarry _ _ => ⟨0x8004, 0xF00F⟩
  | .subBorrow _ _ => ⟨0x8005, 0xF00F⟩
  | .shiftRight _ _ => ⟨0x8006, 0xF00F⟩
  | .reverseSub _ _ => ⟨0x8007, 0xF00F⟩
  | .shiftLeft _ _ => ⟨0x800E, 0xF00F⟩
  | .skipNeReg _ _ => ⟨0x9000, 0xF00F⟩
  | .loadIndex _ => ⟨0xA000, 0xF000⟩
  | .jumpV0 _ => ⟨0xB000, 0xF000⟩
  | .random _ _ => ⟨0xC000, 0xF000⟩
  | .draw _ _ _ => ⟨0xD000, 0xF000⟩
  | .skipKey _ => ⟨0xE09E, 0xF0FF⟩
  | .skipNotKey _ => ⟨0xE0A1, 0xF0FF⟩
  | .loadDelay _ => ⟨0xF007, 0xF0FF⟩
  | .waitKey _ => ⟨0xF00A, 0xF0FF⟩
  | .storeDelay _ => ⟨0xF015, 0xF0FF⟩
  | .storeSound _ => ⟨0xF018, 0xF0FF⟩
  | .addIndex _ => ⟨0xF01E, 0xF0FF⟩
  | .loadSpriteAddr _ => ⟨0xF029, 0xF0FF⟩
  | .storeBcd _ => ⟨0xF033, 0xF0FF⟩
  | .storeRegs _ => ⟨0xF055, 0xF0FF⟩
  | .loadRegs _ => ⟨0xF065, 0xF0FF⟩

end Sys2Proof
end

