-- ==== Sys2Proof/Decode.lean ====
section
/-! DEFINITION. The decoder of spec 30_encoding.md R62 to R64 and R68 to R70, total on any bytes, and the encoder written
from the same opcode map (R61, R66). -/

namespace Sys2Proof

/-- `family = op[15:12]` (R62). -/
def opFamily (op : Opcode) : Nat := (op.extractLsb' 12 4).toNat

/-- `X = op[11:8]` (R62, R64). -/
def opX (op : Opcode) : Reg := (op.extractLsb' 8 4).toFin

/-- `Y = op[7:4]` (R62, R64). -/
def opY (op : Opcode) : Reg := (op.extractLsb' 4 4).toFin

/-- `N = op[3:0]` (R62, R64). -/
def opN (op : Opcode) : BitVec 4 := op.extractLsb' 0 4

/-- `NN = op[7:0]` (R62, R64). -/
def opNN (op : Opcode) : Byte := op.extractLsb' 0 8

/-- `NNN = op[11:0]` (R62, R64). -/
def opNNN (op : Opcode) : BitVec 12 := op.extractLsb' 0 12

/-- Family 8, selected by the low nibble (R63). -/
def decodeFamily8 (op : Opcode) : Option Instr :=
  match (opN op).toNat with
  | 0x0 => some (.copy (opX op) (opY op))
  | 0x1 => some (.orReg (opX op) (opY op))
  | 0x2 => some (.andReg (opX op) (opY op))
  | 0x3 => some (.xorReg (opX op) (opY op))
  | 0x4 => some (.addCarry (opX op) (opY op))
  | 0x5 => some (.subBorrow (opX op) (opY op))
  | 0x6 => some (.shiftRight (opX op) (opY op))
  | 0x7 => some (.reverseSub (opX op) (opY op))
  | 0xE => some (.shiftLeft (opX op) (opY op))
  | _ => none

/-- Family E, selected by the low byte (R63). -/
def decodeFamilyE (op : Opcode) : Option Instr :=
  if opNN op = 0x9E then some (.skipKey (opX op))
  else if opNN op = 0xA1 then some (.skipNotKey (opX op))
  else none

/-- Family F, selected by the low byte (R63). -/
def decodeFamilyF (op : Opcode) : Option Instr :=
  if opNN op = 0x07 then some (.loadDelay (opX op))
  else if opNN op = 0x0A then some (.waitKey (opX op))
  else if opNN op = 0x15 then some (.storeDelay (opX op))
  else if opNN op = 0x18 then some (.storeSound (opX op))
  else if opNN op = 0x1E then some (.addIndex (opX op))
  else if opNN op = 0x29 then some (.loadSpriteAddr (opX op))
  else if opNN op = 0x33 then some (.storeBcd (opX op))
  else if opNN op = 0x55 then some (.storeRegs (opX op))
  else if opNN op = 0x65 then some (.loadRegs (opX op))
  else none

/-- The families 1 to F, selected by the top nibble (R63); family 0 has no further instruction. -/
def decodeFamily (op : Opcode) : Option Instr :=
  match opFamily op with
  | 0x1 => some (.jump (opNNN op))
  | 0x2 => some (.call (opNNN op))
  | 0x3 => some (.skipEqImm (opX op) (opNN op))
  | 0x4 => some (.skipNeImm (opX op) (opNN op))
  | 0x5 => if opN op = 0 then some (.skipEqReg (opX op) (opY op)) else none
  | 0x6 => some (.loadImm (opX op) (opNN op))
  | 0x7 => some (.addImm (opX op) (opNN op))
  | 0x8 => decodeFamily8 op
  | 0x9 => if opN op = 0 then some (.skipNeReg (opX op) (opY op)) else none
  | 0xA => some (.loadIndex (opNNN op))
  | 0xB => some (.jumpV0 (opNNN op))
  | 0xC => some (.random (opX op) (opNN op))
  | 0xD => some (.draw (opX op) (opY op) (opN op))
  | 0xE => decodeFamilyE op
  | 0xF => decodeFamilyF op
  | _ => none

/-- The decode procedure of R63: `none` is UNKNOWN. It has no state and no mode (R70). -/
def decodeOpcode (op : Opcode) : Option Instr :=
  if op = 0x00E0 then some .clearScreen
  else if op = 0x00EE then some .ret
  else decodeFamily op

/-- The opcode is big-endian: the byte at the lower address supplies bits 15:8 (R44). -/
def opcodeOfBytes (hi lo : Byte) : Opcode := hi ++ lo

/-- The byte of an opcode stored at the lower address (R44). -/
def opcodeHi (op : Opcode) : Byte := op.extractLsb' 8 8

/-- The byte of an opcode stored at the higher address (R44). -/
def opcodeLo (op : Opcode) : Byte := op.extractLsb' 0 8

/-- What decoding a sequence of bytes answers. -/
inductive Decoded where
  /-- An instruction, and the bytes after it. -/
  | instr (i : Instr) (rest : List Byte)
  /-- A word no instruction has (R68): executing it raises `Fatal(UnknownOpcode)`. -/
  | unknownOpcode (op : Opcode)
  /-- Fewer than the two bytes of an instruction (R60). -/
  | truncated
  deriving DecidableEq, Repr

/-- Decoding of the bytes at an address, lowest address first: total, and every refusal has a name. -/
def decodeBytes : List Byte → Decoded
  | hi :: lo :: rest =>
    match decodeOpcode (opcodeOfBytes hi lo) with
    | some i => .instr i rest
    | none => .unknownOpcode (opcodeOfBytes hi lo)
  | _ => .truncated

/-- The host's numbering of an instruction's bits: bit 0 is the least significant bit of its one 16-bit word, whose
two bytes stand in memory high byte first (R44, R60). Bits at and above `nbits` are 0. -/
def decodeTableWord (nbits w : Nat) : Option Instr :=
  let op : Opcode := BitVec.ofNat 16 (w % 2 ^ nbits)
  match decodeBytes [opcodeHi op, opcodeLo op] with
  | .instr i _ => some i
  | _ => none

/-- The number of a register as the 4-bit field X or Y (R62). -/
def regField (r : Reg) : BitVec 4 := BitVec.ofFin r

/-- Format `NNN` (R61). -/
def encodeNNN (family : BitVec 4) (nnn : BitVec 12) : Opcode := family ++ nnn

/-- Format `XNN` (R61); also `Xss`, whose low byte is the fixed sub-opcode. -/
def encodeXNN (family : BitVec 4) (x : Reg) (nn : Byte) : Opcode := family ++ (regField x ++ nn)

/-- Format `XYN` (R61); also `XYs`, whose low nibble is the fixed sub-opcode. -/
def encodeXYN (family : BitVec 4) (x y : Reg) (n : BitVec 4) : Opcode :=
  family ++ (regField x ++ (regField y ++ n))

/-- The word of an instruction (R66). -/
def encode : Instr → Opcode
  | .clearScreen => 0x00E0
  | .ret => 0x00EE
  | .jump nnn => encodeNNN 0x1 nnn
  | .call nnn => encodeNNN 0x2 nnn
  | .skipEqImm x nn => encodeXNN 0x3 x nn
  | .skipNeImm x nn => encodeXNN 0x4 x nn
  | .skipEqReg x y => encodeXYN 0x5 x y 0x0
  | .loadImm x nn => encodeXNN 0x6 x nn
  | .addImm x nn => encodeXNN 0x7 x nn
  | .copy x y => encodeXYN 0x8 x y 0x0
  | .orReg x y => encodeXYN 0x8 x y 0x1
  | .andReg x y => encodeXYN 0x8 x y 0x2
  | .xorReg x y => encodeXYN 0x8 x y 0x3
  | .addCarry x y => encodeXYN 0x8 x y 0x4
  | .subBorrow x y => encodeXYN 0x8 x y 0x5
  | .shiftRight x y => encodeXYN 0x8 x y 0x6
  | .reverseSub x y => encodeXYN 0x8 x y 0x7
  | .shiftLeft x y => encodeXYN 0x8 x y 0xE
  | .skipNeReg x y => encodeXYN 0x9 x y 0x0
  | .loadIndex nnn => encodeNNN 0xA nnn
  | .jumpV0 nnn => encodeNNN 0xB nnn
  | .random x nn => encodeXNN 0xC x nn
  | .draw x y n => encodeXYN 0xD x y n
  | .skipKey x => encodeXNN 0xE x 0x9E
  | .skipNotKey x => encodeXNN 0xE x 0xA1
  | .loadDelay x => encodeXNN 0xF x 0x07
  | .waitKey x => encodeXNN 0xF x 0x0A
  | .storeDelay x => encodeXNN 0xF x 0x15
  | .storeSound x => encodeXNN 0xF x 0x18
  | .addIndex x => encodeXNN 0xF x 0x1E
  | .loadSpriteAddr x => encodeXNN 0xF x 0x29
  | .storeBcd x => encodeXNN 0xF x 0x33
  | .storeRegs x => encodeXNN 0xF x 0x55
  | .loadRegs x => encodeXNN 0xF x 0x65

/-- The bytes of an instruction, lowest address first (R44). -/
def encodeBytes (i : Instr) : List Byte := [opcodeHi (encode i), opcodeLo (encode i)]

end Sys2Proof
end

