-- ==== Sys2Proof/Machine/State.lean ====
section
/-! DEFINITION. The state of the machine as plain data: the core's tuple of spec 10_state.md (mem, V, I, pc, stack, sp,
delay, sound, paused, fatal, wait), the progress of the `RunCycle` being executed (40_cycle.md R81), and beside the core
the outside world's side of the interfaces of 50_interfaces.md. -/

namespace Sys2Proof.Machine

/-- Why the machine stops outside the spec's own mechanism. The spec's fatal conditions are NOT here: they are taken as
the spec describes them, into a next state (`raiseFatal`). -/
inductive Fault where
  /-- An access by `memRead` or `memWrite` to an address of 4096 or more, which does not exist (R40); R8 requires the
  caller to have raised `AddressOutOfRange` first. SAFE: the machine stops; no step of the machine raises it. -/
  | outsideMemory (addr : Nat)
  deriving DecidableEq, Repr

/-- Why an instruction has no meaning. -/
inductive Refusal where
  /-- An arm of `exec` whose instruction has no meaning yet; no arm answers it. SAFE: the machine stops. -/
  | notModelled (mnemonic : String)
  deriving DecidableEq, Repr

/-- The three outcomes, over this machine's reasons. -/
abbrev Res (α : Type) := Host.Outcome α Fault Refusal

/-- The kinds of fatal condition (R230); the kind `None` is `none` of `Option`. -/
inductive FatalKind where
  | unknownOpcode
  | stackOverflow
  | stackUnderflow
  | invalidDigit
  | addressOutOfRange
  deriving DecidableEq, Repr

/-- What `RunCycle` returns (R82, R204). -/
inductive Status where
  | completed
  | blockedOnKey
  | halted (kind : FatalKind)
  deriving DecidableEq, Repr

/-- The requests the core issues to its collaborators, with their arguments (R200). -/
inductive Request where
  /-- `Frame.clear()` (R205). -/
  | frameClear
  /-- `Frame.toggle(x, y)` (R206). -/
  | frameToggle (p : Pixel)
  /-- `Frame.present()` (R207). -/
  | framePresent
  /-- `Key.isPressed(k)` (R209). -/
  | keyIsPressed (k : Key)
  /-- `Audio.startTone()` (R211). -/
  | audioStartTone
  /-- `Audio.stopTone()` (R211). -/
  | audioStopTone
  /-- `Rand.next()` (R212). -/
  | randNext
  deriving DecidableEq, Repr

/-- The replies of host operations; `Reset` and `KeyPress` have none (R202 to R204, R210). -/
inductive HostReply where
  | loaded
  | loadTooLarge
  | status (st : Status)
  deriving DecidableEq, Repr

/-- What an observer sees (R213). -/
inductive Event where
  | request (r : Request)
  | reply (r : HostReply)
  deriving DecidableEq, Repr

/-- The operations that enter the core (R80, R201). -/
inductive HostOp where
  | reset
  | loadProgram (image : List Byte)
  | runCycle (n : Nat)
  | keyPress (k : Key)
  deriving DecidableEq, Repr

/-- The outside world's side of the interfaces. None of it is state of the core (R28): it is the model's own, the inputs
of the operations and the record of what an observer sees. -/
structure Env where
  /-- The operations the host and the input collaborator will invoke, next one first (R80, R201). -/
  hostOps : List HostOp
  /-- The random source's replies already settled, next one first; after them the reply is free (R212). -/
  randomBytes : List Byte
  /-- The input collaborator's replies to `isPressed` already settled, next one first; after them free (R209). -/
  keyReplies : List Bool
  /-- The framebuffer's replies to `toggle` already settled, next one first; after them free (R206). -/
  toggleReplies : List Bool
  /-- How many free values have been taken: the argument of the next one. -/
  freeCount : Nat
  /-- The requests issued and the replies given so far, oldest first (R213). -/
  trace : List Event
  deriving DecidableEq, Repr

/-- Memory: the bytes that differ from their reset contents, as (address, byte), addresses strictly rising. -/
abbrev Memory := List Host.Cell

/-- The state of the machine. -/
structure State where
  /-- Memory, 4096 bytes (R27, R40). -/
  mem : Memory
  /-- The general registers V0 to VF (R10); VF is also the flag (R13). -/
  V : Vector Byte 16
  /-- The index register (R14). -/
  I : Addr
  /-- The program counter (R15). -/
  pc : Addr
  /-- The call stack's slots (R18). -/
  stack : Vector Addr 16
  /-- The number of return addresses held, `sp + 1` (R19). -/
  depth : Fin 17
  /-- The delay timer (R21). -/
  delay : Byte
  /-- The sound timer (R22). -/
  sound : Byte
  /-- The execution-paused flag (R23). -/
  paused : Bool
  /-- The fatal condition that halted the core, if any (R24). -/
  fatal : Option FatalKind
  /-- The pending key wait's register, if any (R25). -/
  wait : Option Reg
  /-- The `RunCycle` being executed: how many of its instruction steps are left; `none` between operations (R81). -/
  cycle : Option Nat
  /-- The outside world (R28: not the core's). -/
  env : Env
  deriving DecidableEq, Repr

/-- The outside world with nothing pending and nothing recorded. -/
def Env.empty : Env :=
  { hostOps := [], randomBytes := [], keyReplies := [], toggleReplies := [], freeCount := 0, trace := [] }

/-- The machine right after reset (R29, R260, R264). An address memory does not list reads as its reset contents
(Memory.lean), so reset memory lists nothing. -/
def State.reset : State :=
  { mem := []
    V := Vector.replicate 16 0
    I := 0
    pc := 0x200
    stack := Vector.replicate 16 0
    depth := 0
    delay := 0
    sound := 0
    paused := false
    fatal := none
    wait := none
    cycle := none
    env := Env.empty }

end Sys2Proof.Machine
end

