-- ==== Sys2Proof/Machine/Ops.lean ====
section
/-! DEFINITION. The named operations over the core's state: registers, program counter, call stack, memory accesses with
their range check, taking a fatal condition and the one way back from it (spec 10_state.md, 20_memory.md,
60_exceptions.md R240, 70_reset_and_hazards.md R260). -/

namespace Sys2Proof.Machine

/-- Go on with the answer of `r`; a stop stays a stop. -/
def andThen {α β : Type} (r : Res α) (k : α → Res β) : Res β :=
  match r with
  | .next a => k a
  | .fault f => .fault f
  | .refused f => .refused f

/-- The flag register VF is V[15] (R13). -/
def VF : Reg := 15

/-- Read of a general register (R8 `V[i]`). -/
def State.reg (s : State) (x : Reg) : Byte := s.V[x.val]

/-- Write of a general register (R8 `V[i] <- v`). -/
def State.setReg (s : State) (x : Reg) (v : Byte) : State := { s with V := s.V.set x.val v x.isLt }

/-- `I <- v` (R8, R14). -/
def State.setI (s : State) (v : Addr) : State := { s with I := v }

/-- `pc <- target` (R8); no mask and no range check (R17, R100). -/
def State.setPc (s : State) (target : Addr) : State := { s with pc := target }

/-- `pc <- pc + 2`: the common advance of R86 and the further advance of a taken skip (R109). -/
def State.advancePc (s : State) : State := s.setPc (s.pc + 2)

/-- A taken skip advances `pc` by a further 2 (R16, R109). -/
def State.skipIf (s : State) (taken : Bool) : State := if taken then s.advancePc else s

/-- `delay <- v` (R21). -/
def State.setDelay (s : State) (v : Byte) : State := { s with delay := v }

/-- `sound <- v` (R22). -/
def State.setSound (s : State) (v : Byte) : State := { s with sound := v }

/-- Memory replaced. -/
def State.setMem (s : State) (m : Memory) : State := { s with mem := m }

/-- The outside world replaced. -/
def State.setEnv (s : State) (e : Env) : State := { s with env := e }

/-- The progress of the `RunCycle` being executed replaced. -/
def State.setCycle (s : State) (c : Option Nat) : State := { s with cycle := c }

/-- The stack pointer of R19: -1 when the stack is empty. -/
def State.sp (s : State) : Int := (s.depth.val : Int) - 1

/-- TAKING A FATAL CONDITION: `raise Fatal(kind)` (R240). The kind is recorded, `paused` is set, and the current step
does nothing more; there is no handler, no vector and nothing is saved (R236, R240). -/
def raiseFatal (kind : FatalKind) (s : State) : State := { s with fatal := some kind, paused := true }

/-- THE RETURN FROM A FATAL CONDITION is `Reset()`, the only recovery path (R243): every piece of the core's state takes
its reset value (R260); the collaborators and the host are not touched (R261). -/
def resetCore (s : State) : State := { State.reset with env := s.env }

/-- The code of a fatal kind (R230); 0 is `None`. -/
def fatalCode : Option FatalKind → Nat
  | none => 0
  | some .unknownOpcode => 1
  | some .stackOverflow => 2
  | some .stackUnderflow => 3
  | some .invalidDigit => 4
  | some .addressOutOfRange => 5

/-- `wait-for-key`'s suspension: `paused <- true; wait <- Some(X)` (R176). -/
def State.beginWait (s : State) (x : Reg) : State := { s with paused := true, wait := some x }

/-- The push of `call` (R20, R103): `none` when the stack already holds 16 entries. -/
def State.push (s : State) (a : Addr) : Option State :=
  if h : s.depth.val < 16 then
    some { s with stack := s.stack.set s.depth.val a h, depth := ⟨s.depth.val + 1, by omega⟩ }
  else none

/-- The pop of `return` (R20, R101): `none` when the stack is empty. The popped slot keeps its value (R20). -/
def State.pop (s : State) : Option (Addr × State) :=
  if h : 0 < s.depth.val then
    some (s.stack[s.depth.val - 1]'(by omega), { s with depth := ⟨s.depth.val - 1, by omega⟩ })
  else none

/-- `MemRead(addr, 1)` (R8, R47). An address outside memory does not exist; the caller has checked (R49). -/
def memRead (s : State) (a : Nat) : Res Byte :=
  if a < Config.memSize then .next (s.mem.read a) else .fault (.outsideMemory a)

/-- `MemWrite(addr, 1, v)` (R8, R47), with the same requirement. -/
def memWrite (s : State) (a : Nat) (v : Byte) : Res State :=
  if a < Config.memSize then .next (s.setMem (s.mem.write a v)) else .fault (.outsideMemory a)

/-- `count` bytes from `base` upwards. -/
def memReadBlock (s : State) (base : Nat) : Nat → Res (List Byte)
  | 0 => .next []
  | count + 1 =>
    andThen (memRead s base) fun b =>
      andThen (memReadBlock s (base + 1) count) fun bs => .next (b :: bs)

/-- The bytes of a list written from `base` upwards, in order. -/
def memWriteBlock (s : State) (base : Nat) : List Byte → Res State
  | [] => .next s
  | b :: bs => andThen (memWrite s base b) fun t => memWriteBlock t (base + 1) bs

/-- The range check of R49: the highest address `last` of the whole range an instruction will touch is compared, before
the instruction changes anything, with the highest address of memory. Addresses are natural numbers, never wrapped
(R55). -/
def checkRange (s : State) (last : Nat) (access : Res State) : Res State :=
  if last > Config.lastAddr then .next (raiseFatal .addressOutOfRange s) else access

end Sys2Proof.Machine
end

