-- ==== Sys2Proof/Machine/Operands.lean ====
section
/-! DEFINITION. The operand forms: immediates (spec 30_encoding.md R64), the indexed jump target (R104), the one addressing
mode `I + k` (44_index_memory.md R150), the register block `V[0]..V[X]` (R155), decimal digits (R154), glyph addresses
(R153) and sprite pixels (46_display.md R192). -/

namespace Sys2Proof.Machine

/-- `NNN` zero-extended to the 16 bits of `pc` or `I` (R64). -/
def addrOfImm (nnn : BitVec 12) : Addr := nnn.setWidth 16

/-- `NNN + V[0]`, neither masked nor wrapped: at most 0x10FE (R104). -/
def indexedTarget (nnn : BitVec 12) (v0 : Byte) : Addr := BitVec.ofNat 16 (nnn.toNat + v0.toNat)

/-- `(I + V[X]) mod 65536` (R152). -/
def indexPlus (i : Addr) (v : Byte) : Addr := BitVec.ofNat 16 (i.toNat + v.toNat)

/-- The effective address `I + k`, a natural number that is not reduced (R55, R150). -/
def State.effAddr (s : State) (k : Nat) : Nat := s.I.toNat + k

/-- The registers V[0] to V[X], in the order of the block transfers (R155, R156). -/
def regsUpTo (x : Reg) : List Reg := (List.finRange 16).filter fun r => r.val ≤ x.val

/-- `GLYPH_STRIDE` (R6): the bytes of one glyph. -/
def glyphStride : Nat := 5

/-- The address of the glyph of a digit: `V[X] * 5` (R153). -/
def glyphAddr (digit : Byte) : Addr := BitVec.ofNat 16 (digit.toNat * glyphStride)

/-- The hundreds, tens and units digits of a byte (R154). -/
def bcdDigits (v : Byte) : List Byte :=
  [BitVec.ofNat 8 (v.toNat / 100), BitVec.ofNat 8 (v.toNat / 10 % 10), BitVec.ofNat 8 (v.toNat % 10)]

/-- The key code a register names, if it names one: 16 to 255 name no key (R174). -/
def keyOfByte (v : Byte) : Option Key := if h : v.toNat < 16 then some ⟨v.toNat, h⟩ else none

/-- The pixel at a column and row, each taken modulo the screen's size (R192, R208). -/
def wrapPixel (x y : Nat) : Pixel := (⟨x % 64, Nat.mod_lt _ (by decide)⟩, ⟨y % 32, Nat.mod_lt _ (by decide)⟩)

/-- The pixels of one sprite row, left to right: bit 7 is the leftmost, and only set bits count (R192). -/
def spriteRow (x0 y : Nat) (row : Byte) : List Pixel :=
  (List.range 8).filterMap fun c => if row.getLsbD (7 - c) then some (wrapPixel (x0 + c) y) else none

/-- The pixels of a sprite, top row first (R192). -/
def spritePixels (x0 y0 : Nat) : List Byte → List Pixel
  | [] => []
  | row :: rows => spriteRow x0 y0 row ++ spritePixels x0 (y0 + 1) rows

end Sys2Proof.Machine
end

