-- ==== Sys2Proof/Machine/Control.lean ====
section
/-! DEFINITION. Control transfer and skips (spec 41_control_transfer.md). Every meaning runs after the common part of the
step: `pc` holds the address of the instruction plus 2 (R86, R100). -/

namespace Sys2Proof.Machine

/-- `return` (R101). -/
def execRet (s : State) : Res State :=
  match s.pop with
  | some (target, t) => .next (t.setPc target)
  | none => .next (raiseFatal .stackUnderflow s)

/-- `jump NNN` (R102). -/
def execJump (nnn : BitVec 12) (s : State) : Res State := .next (s.setPc (addrOfImm nnn))

/-- `call NNN` (R103): the return address is the advanced `pc`. -/
def execCall (nnn : BitVec 12) (s : State) : Res State :=
  match s.push s.pc with
  | some t => .next (t.setPc (addrOfImm nnn))
  | none => .next (raiseFatal .stackOverflow s)

/-- `jump NNN+V0` (R104). -/
def execJumpV0 (nnn : BitVec 12) (s : State) : Res State := .next (s.setPc (indexedTarget nnn (s.reg 0)))

/-- `skip-if-equal Vx,NN` (R105). -/
def execSkipEqImm (x : Reg) (nn : Byte) (s : State) : Res State := .next (s.skipIf (s.reg x == nn))

/-- `skip-if-not-equal Vx,NN` (R106). -/
def execSkipNeImm (x : Reg) (nn : Byte) (s : State) : Res State := .next (s.skipIf (s.reg x != nn))

/-- `skip-if-equal Vx,Vy` (R107). -/
def execSkipEqReg (x y : Reg) (s : State) : Res State := .next (s.skipIf (s.reg x == s.reg y))

/-- `skip-if-not-equal Vx,Vy` (R108). -/
def execSkipNeReg (x y : Reg) (s : State) : Res State := .next (s.skipIf (s.reg x != s.reg y))

end Sys2Proof.Machine
end

