-- ==== Sys2Proof/Machine/Environment.lean ====
section
/-! DEFINITION. The core's side of its interfaces (spec 50_interfaces.md): a request is recorded in the order issued (R213),
and its reply, where it has one, is the next one the environment has settled, or else a free value (R206, R209, R212). -/

namespace Sys2Proof.Machine

/-- An event added to what the observer sees (R213). -/
def Env.record (e : Env) (ev : Event) : Env := { e with trace := e.trace ++ [ev] }

/-- A request without a reply (R205, R207, R211). -/
def Env.request (e : Env) (r : Request) : Env := e.record (.request r)

/-- The reply of a host operation (R202 to R204). -/
def Env.answer (e : Env) (r : HostReply) : Env := e.record (.reply r)

/-- The next random byte, and the environment without it (R212). -/
def Env.takeRandom (e : Env) : Byte × Env :=
  match e.randomBytes with
  | b :: bs => (b, { e with randomBytes := bs })
  | [] => (Config.freeRandomByte e.freeCount, { e with freeCount := e.freeCount + 1 })

/-- The next reply to `isPressed`, and the environment without it (R209). -/
def Env.takeKeyReply (e : Env) : Bool × Env :=
  match e.keyReplies with
  | b :: bs => (b, { e with keyReplies := bs })
  | [] => (Config.freeKeyReply e.freeCount, { e with freeCount := e.freeCount + 1 })

/-- The next reply to `toggle`, and the environment without it (R206). -/
def Env.takeToggleReply (e : Env) : Bool × Env :=
  match e.toggleReplies with
  | b :: bs => (b, { e with toggleReplies := bs })
  | [] => (Config.freeToggleReply e.freeCount, { e with freeCount := e.freeCount + 1 })

/-- `Rand.next()` (R212). -/
def Env.askRandom (e : Env) : Byte × Env := (e.request .randNext).takeRandom

/-- `Key.isPressed(k)` (R209). -/
def Env.askKey (e : Env) (k : Key) : Bool × Env := (e.request (.keyIsPressed k)).takeKeyReply

/-- The query of the key skips: no request for a code that names no key, which counts as not pressed (R174, R175). -/
def Env.askKeyCode (e : Env) : Option Key → Bool × Env
  | some k => e.askKey k
  | none => (false, e)

/-- `Frame.toggle(x, y)` (R206). -/
def Env.askToggle (e : Env) (p : Pixel) : Bool × Env := (e.request (.frameToggle p)).takeToggleReply

/-- One `toggle` for each pixel in turn; whether any of them was set before (R192). -/
def Env.askToggles (e : Env) : List Pixel → Bool × Env
  | [] => (false, e)
  | p :: ps =>
    let first := e.askToggle p
    let others := first.2.askToggles ps
    (first.1 || others.1, others.2)

end Sys2Proof.Machine
end

