-- ==== Sys2Proof/Machine/Flags.lean ====
section
/-! DEFINITION. The results and the flag values of the register-register operations (spec 43_register_ops.md R130, R140;
10_state.md R13). Operands are unsigned; sums and differences are computed exactly and then narrowed. -/

namespace Sys2Proof.Machine

/-- A flag as the byte VF receives: 1 or 0 (R13). -/
def flagByte (f : Bool) : Byte := if f then 1 else 0

/-- `(a + b) mod 256` (R135). -/
def sumByte (a b : Byte) : Byte := BitVec.ofNat 8 (a.toNat + b.toNat)

/-- Carry: the exact sum exceeds 255 (R135). -/
def carryOut (a b : Byte) : Bool := a.toNat + b.toNat > 255

/-- `(a - b) mod 256` (R136, R140). -/
def diffByte (a b : Byte) : Byte := BitVec.ofInt 8 ((a.toNat : Int) - b.toNat)

/-- The subtract flag: minuend strictly greater than subtrahend (R136, R140). -/
def strictlyGreater (a b : Byte) : Bool := a.toNat > b.toNat

/-- `a >> 1`, a 0 shifted in (R137). -/
def shiftedRight (a : Byte) : Byte := BitVec.ofNat 8 (a.toNat / 2)

/-- The bit a right shift moves out: bit 0 (R137). -/
def shiftedOutRight (a : Byte) : Bool := a.toNat % 2 = 1

/-- `(a << 1) mod 256`, a 0 shifted in (R139). -/
def shiftedLeft (a : Byte) : Byte := BitVec.ofNat 8 (a.toNat * 2)

/-- The bit a left shift moves out: bit 7 (R139). -/
def shiftedOutLeft (a : Byte) : Bool := a.toNat ≥ 128

/-- Steps (3) and (4) of R130: the result into V[X], and last of all the flag into VF. With `X = F` the flag stays and the
result is lost. -/
def State.setRegThenFlag (s : State) (x : Reg) (r : Byte) (f : Bool) : State :=
  (s.setReg x r).setReg VF (flagByte f)

end Sys2Proof.Machine
end

