-- ==== Sys2Proof/Machine/Display.lean ====
section
/-! DEFINITION. The display instructions (spec 46_display.md): the core's only pixel traffic. It keeps no copy of a pixel
(R190). -/

namespace Sys2Proof.Machine

/-- `clear-screen` (R191). -/
def execClearScreen (s : State) : Res State := .next (s.setEnv (s.env.request .frameClear))

/-- Whether the sprite of `N` rows at `I` runs past the end of memory; with `N = 0` nothing is read (R49, R192). -/
def spriteOutOfRange (s : State) (n : BitVec 4) : Bool :=
  0 < n.toNat ∧ s.effAddr (n.toNat - 1) > Config.lastAddr

/-- `draw Vx,Vy,N` (R192): the coordinates are the registers' values before VF changes; VF becomes the collision flag. -/
def execDraw (x y : Reg) (n : BitVec 4) (s : State) : Res State :=
  if spriteOutOfRange s n then .next (raiseFatal .addressOutOfRange s)
  else
    andThen (memReadBlock s (s.effAddr 0) n.toNat) fun rows =>
      let toggles := s.env.askToggles (spritePixels (s.reg x).toNat (s.reg y).toNat rows)
      .next ((s.setEnv toggles.2).setReg VF (flagByte toggles.1))

end Sys2Proof.Machine
end

