-- ==== Sys2Proof/Machine/Immediate.lean ====
section
/-! DEFINITION. The immediate-operand register instructions (spec 42_immediate_ops.md). None of them writes VF as a flag
(R120). -/

namespace Sys2Proof.Machine

/-- `load Vx,NN` (R121). -/
def execLoadImm (x : Reg) (nn : Byte) (s : State) : Res State := .next (s.setReg x nn)

/-- `add Vx,NN` (R122). -/
def execAddImm (x : Reg) (nn : Byte) (s : State) : Res State := .next (s.setReg x (sumByte (s.reg x) nn))

/-- `random Vx,NN` (R123): one draw is consumed whatever the mask. -/
def execRandom (x : Reg) (nn : Byte) (s : State) : Res State :=
  let draw := s.env.askRandom
  .next ((s.setEnv draw.2).setReg x (draw.1 &&& nn))

end Sys2Proof.Machine
end

