-- ==== Sys2Proof/Machine/Index.lean ====
section
/-! DEFINITION. The index register and memory transfer instructions (spec 44_index_memory.md). The range check is made on
the whole range before the first access, and no access changes `I` (R150). -/

namespace Sys2Proof.Machine

/-- `load-index NNN` (R151). -/
def execLoadIndex (nnn : BitVec 12) (s : State) : Res State := .next (s.setI (addrOfImm nnn))

/-- `add-index Vx` (R152): no flag. -/
def execAddIndex (x : Reg) (s : State) : Res State := .next (s.setI (indexPlus s.I (s.reg x)))

/-- `load-sprite-address Vx` (R153): the whole byte is tested. -/
def execLoadSpriteAddr (x : Reg) (s : State) : Res State :=
  if (s.reg x).toNat > 15 then .next (raiseFatal .invalidDigit s) else .next (s.setI (glyphAddr (s.reg x)))

/-- `store-BCD Vx` (R154). -/
def execStoreBcd (x : Reg) (s : State) : Res State :=
  checkRange s (s.effAddr 2) (memWriteBlock s (s.effAddr 0) (bcdDigits (s.reg x)))

/-- `store-registers Vx` (R155). -/
def execStoreRegs (x : Reg) (s : State) : Res State :=
  checkRange s (s.effAddr x.val) (memWriteBlock s (s.effAddr 0) ((regsUpTo x).map s.reg))

/-- `V[r] <- MemRead(base + r, 1)` for the registers of a list in turn (R156). -/
def loadRegList (base : Nat) : List Reg → State → Res State
  | [], s => .next s
  | r :: rs, s => andThen (memRead s (base + r.val)) fun b => loadRegList base rs (s.setReg r b)

/-- `load-registers Vx` (R156). -/
def execLoadRegs (x : Reg) (s : State) : Res State :=
  checkRange s (s.effAddr x.val) (loadRegList (s.effAddr 0) (regsUpTo x) s)

end Sys2Proof.Machine
end

