-- ==== Sys2Proof/Machine/Register.lean ====
section
/-! DEFINITION. The register-register operations (spec 43_register_ops.md). Both sources are read before any write, and the
flag, where there is one, is written last (R130). -/

namespace Sys2Proof.Machine

/-- `copy Vx,Vy` (R131). -/
def execCopy (x y : Reg) (s : State) : Res State := .next (s.setReg x (s.reg y))

/-- `OR Vx,Vy` (R132). -/
def execOr (x y : Reg) (s : State) : Res State := .next (s.setReg x (s.reg x ||| s.reg y))

/-- `AND Vx,Vy` (R133). -/
def execAnd (x y : Reg) (s : State) : Res State := .next (s.setReg x (s.reg x &&& s.reg y))

/-- `XOR Vx,Vy` (R134). -/
def execXor (x y : Reg) (s : State) : Res State := .next (s.setReg x (s.reg x ^^^ s.reg y))

/-- `add-with-carry Vx,Vy` (R135): there is no carry input (R140). -/
def execAddCarry (x y : Reg) (s : State) : Res State :=
  .next (s.setRegThenFlag x (sumByte (s.reg x) (s.reg y)) (carryOut (s.reg x) (s.reg y)))

/-- `sub-with-borrow Vx,Vy` (R136): the minuend is V[X]. -/
def execSubBorrow (x y : Reg) (s : State) : Res State :=
  .next (s.setRegThenFlag x (diffByte (s.reg x) (s.reg y)) (strictlyGreater (s.reg x) (s.reg y)))

/-- `shift-right Vx` (R137): V[X] is shifted in place and Y has no effect. -/
def execShiftRight (x _y : Reg) (s : State) : Res State :=
  .next (s.setRegThenFlag x (shiftedRight (s.reg x)) (shiftedOutRight (s.reg x)))

/-- `reverse-subtract Vx,Vy` (R138): the minuend is V[Y]. -/
def execReverseSub (x y : Reg) (s : State) : Res State :=
  .next (s.setRegThenFlag x (diffByte (s.reg y) (s.reg x)) (strictlyGreater (s.reg y) (s.reg x)))

/-- `shift-left Vx` (R139): V[X] is shifted in place and Y has no effect. -/
def execShiftLeft (x _y : Reg) (s : State) : Res State :=
  .next (s.setRegThenFlag x (shiftedLeft (s.reg x)) (shiftedOutLeft (s.reg x)))

end Sys2Proof.Machine
end

