-- ==== Sys2Proof/Machine/TimerKey.lean ====
section
/-! DEFINITION. The timer and key instructions, and the delivery of a key (spec 45_timers_keys.md). -/

namespace Sys2Proof.Machine

/-- `load-delay Vx` (R171). -/
def execLoadDelay (x : Reg) (s : State) : Res State := .next (s.setReg x s.delay)

/-- `store-delay Vx` (R172). -/
def execStoreDelay (x : Reg) (s : State) : Res State := .next (s.setDelay (s.reg x))

/-- `store-sound Vx` (R173): no audio request. -/
def execStoreSound (x : Reg) (s : State) : Res State := .next (s.setSound (s.reg x))

/-- `skip-if-key-pressed Vx` (R174). -/
def execSkipKey (x : Reg) (s : State) : Res State :=
  let query := s.env.askKeyCode (keyOfByte (s.reg x))
  .next ((s.setEnv query.2).skipIf query.1)

/-- `skip-if-key-not-pressed Vx` (R175). -/
def execSkipNotKey (x : Reg) (s : State) : Res State :=
  let query := s.env.askKeyCode (keyOfByte (s.reg x))
  .next ((s.setEnv query.2).skipIf !query.1)

/-- `wait-for-key Vx` (R176): no register is written until the key arrives. -/
def execWaitKey (x : Reg) (s : State) : Res State := .next (s.beginWait x)

/-- `KeyPress(k)` (R177): it ends a pending wait and is otherwise ignored; it never clears a fatal pause (R26). -/
def keyPress (k : Key) (s : State) : State :=
  match s.wait with
  | some x => { s.setReg x (BitVec.ofNat 8 k.val) with wait := none, paused := false }
  | none => s

end Sys2Proof.Machine
end

