-- ==== Sys2Proof/Machine/Cycle.lean ====
section
/-! DEFINITION. The operations of the core and the cycle (spec 40_cycle.md): fetch, one instruction step, the timer tick,
`RunCycle` as one operation and instruction by instruction, `LoadProgram`, and the taking of the next host operation. -/

namespace Sys2Proof.Machine

/-- The two bytes of the next instruction, lowest address first (R44, R85). -/
def fetchBytes (s : State) : Res (List Byte) := memReadBlock s s.pc.toNat 2

/-- The handler of what was fetched, run after the advance; an unknown word raises `UnknownOpcode` (R88, R231). -/
def dispatchBytes (bytes : List Byte) (s : State) : Res State :=
  match decodeBytes bytes with
  | .instr i _ => exec i s
  | .unknownOpcode _ => .next (raiseFatal .unknownOpcode s)
  | .truncated => .next (raiseFatal .unknownOpcode s)

/-- `Step()` (R84): fetch, advance, decode, execute. A fetch outside memory raises `AddressOutOfRange` with `pc` unchanged
(R85). -/
def instructionStep (s : State) : Res State :=
  checkRange s (s.pc.toNat + 1) (andThen (fetchBytes s) fun bytes => dispatchBytes bytes s.advancePc)

/-- `if t > 0: t <- t - 1` (R90). -/
def countDown (t : Byte) : Byte := if t.toNat > 0 then BitVec.ofNat 8 (t.toNat - 1) else t

/-- The audio request of a tick, from the decremented sound timer (R90, R211). -/
def audioRequest (sound : Byte) : Request := if sound.toNat > 0 then .audioStartTone else .audioStopTone

/-- `Tick()` (R90). -/
def tick (s : State) : State :=
  let t := (s.setDelay (countDown s.delay)).setSound (countDown s.sound)
  t.setEnv ((t.env.request (audioRequest t.sound)).request .framePresent)

/-- `Status()` (R82). -/
def status (s : State) : Status :=
  match s.fatal with
  | some kind => .halted kind
  | none => if s.paused then .blockedOnKey else .completed

/-- The end of `RunCycle`: no tick while paused (R91), then the status is returned (R81, R82). -/
def endCycle (s : State) : State :=
  let t := if s.paused then s else tick s
  t.setEnv (t.env.answer (.status (status t)))

/-- The loop of `RunCycle(n)`: up to `n` instruction steps, none while paused (R81, R83). -/
def cycleLoop : Nat → State → Res State
  | 0, s => .next s
  | n + 1, s => if s.paused then .next s else andThen (instructionStep s) (cycleLoop n)

/-- `RunCycle(n)` as one operation (R81). The machine's `step` runs it instruction by instruction. -/
def runCycle (n : Nat) (s : State) : Res State := andThen (cycleLoop n s) fun t => .next (endCycle t)

/-- The bytes of an image written from an address upwards (R92). -/
def writeImage (m : Memory) (base : Nat) : List Byte → Memory
  | [] => m
  | b :: bs => writeImage (m.write base b) (base + 1) bs

/-- `LoadProgram(bytes)` (R92): an image that does not fit is refused whole. -/
def loadProgram (image : List Byte) (s : State) : State :=
  if imageWellFormed image then
    (s.setMem (writeImage s.mem Config.progBase image)).setEnv (s.env.answer .loaded)
  else s.setEnv (s.env.answer .loadTooLarge)

/-- A host operation enters the core (R80): `Reset`, `LoadProgram` and `KeyPress` take effect at once; `RunCycle(n)` begins
with its `n` instruction steps to go (R81). -/
def hostOperation (op : HostOp) (s : State) : State :=
  match op with
  | .reset => resetCore s
  | .loadProgram image => loadProgram image s
  | .runCycle n => s.setCycle (some n)
  | .keyPress k => keyPress k s

/-- The next host operation, between cycles; with none pending the core does nothing (R80, R201). -/
def nextHostOp (s : State) : State :=
  match s.env.hostOps with
  | [] => s
  | op :: rest => hostOperation op (s.setEnv { s.env with hostOps := rest })

/-- One step of the machine: inside a `RunCycle`, one instruction or, when none is left or the core is paused, the end of
the cycle (R81, R83); between cycles, one host operation. -/
def machineStep (s : State) : Res State :=
  match s.cycle with
  | none => .next (nextHostOp s)
  | some 0 => .next ((endCycle s).setCycle none)
  | some (k + 1) =>
    if s.paused then .next ((endCycle s).setCycle none) else instructionStep (s.setCycle (some k))

/-- Where the next instruction is fetched: `pc`, or 0x200 when nothing can be fetched at `pc` (R85). -/
def fetchPlace (s : State) : Addr := if s.pc.toNat + 1 > Config.lastAddr then 0x200 else s.pc

/-- A `RunCycle` in progress with at least one instruction to go. -/
def runningCycle : Option Nat → Option Nat
  | some (k + 1) => some (k + 1)
  | _ => some 1

/-- The state with an instruction's word stored where the next step fetches, a `RunCycle` in progress to fetch it and
nothing that pauses the core (notes/assumptions/29.md). -/
def placeOpcode (s : State) (op : Opcode) : State :=
  let a := fetchPlace s
  { s with
    mem := writeImage s.mem a.toNat [opcodeHi op, opcodeLo op]
    pc := a
    paused := false
    fatal := none
    wait := none
    cycle := runningCycle s.cycle }

end Sys2Proof.Machine
end

