-- ==== Sys2Proof/Machine/Step.lean ====
section
/-! DEFINITION. The step of the machine and the placing of an instruction where it fetches; both only call Cycle.lean. -/

namespace Sys2Proof.Machine

/-- One step of the machine (spec 40_cycle.md R80, R81). -/
def step (s : State) : Host.Outcome State Fault Refusal := machineStep s

/-- The state with the instruction whose bits are `w`, as spec/opcode_table.json numbers them, where `step` fetches next. -/
def State.withFetchWord (s : State) (nbits w : Nat) : State := placeOpcode s (BitVec.ofNat 16 (w % 2 ^ nbits))

end Sys2Proof.Machine
end

