-- ==== Sys2Proof/Machine/Reference.lean ====
section
/-! DEFINITION. The reference framebuffer of spec 50_interfaces.md R214. It is not part of the core, no meaning uses it, and a
statement about the core that assumes it says so. -/

namespace Sys2Proof.Machine

/-- The framebuffer's pixels: whether each is set. -/
abbrev Frame := Pixel → Bool

/-- All pixels unset, the reference framebuffer's initial contents. -/
def Frame.blank : Frame := fun _ => false

/-- What a request does to the pixels (R214): `clear` unsets all, `toggle` inverts one, the others change nothing. -/
def Frame.apply (f : Frame) : Request → Frame
  | .frameClear => Frame.blank
  | .frameToggle p => fun q => if q = p then !f q else f q
  | _ => f

/-- The pixels after the requests among some events, oldest first. -/
def Frame.after (f : Frame) : List Event → Frame
  | [] => f
  | .request r :: evs => Frame.after (f.apply r) evs
  | .reply _ :: evs => Frame.after f evs

/-- The replies the reference framebuffer gives to one `toggle` for each pixel of a list in turn (R214). -/
def Frame.replies (f : Frame) : List Pixel → List Bool
  | [] => []
  | p :: ps => f p :: Frame.replies (f.apply (.frameToggle p)) ps

end Sys2Proof.Machine
end

