-- ==== Sys2Proof/Safety.lean ====
section
/-! DEFINITION. The terms claims are stated in: consistent states and safe steps (spec 10_state.md R17, R26), the parts of the
state and what stays unchanged, the access matrix of R30, the fatal conditions of 60_exceptions.md R230, the requests
each instruction may issue (50_interfaces.md R216), and the glyph table as claims name it (20_memory.md R42). -/

namespace Sys2Proof

open Machine

/-- The pause invariant of R26: paused exactly when a fatal condition or a key wait is recorded, and never both. -/
abbrev PauseConsistent (s : State) : Prop :=
  (s.paused = true ↔ s.fatal ≠ none ∨ s.wait ≠ none) ∧ (s.fatal = none ∨ s.wait = none)

/-- The bound of R17 on the program counter, and the same bound on the return addresses the stack's slots hold. -/
abbrev AddressesBounded (s : State) : Prop :=
  s.pc.toNat ≤ 0x10FE ∧ ∀ k : Fin 16, s.stack[k.val].toNat ≤ 0x10FE

/-- A safe step: the machine goes on, neither stopped by a fault nor refused. -/
abbrev SafeStep (s : State) : Prop := ∃ t, step s = .next t

/-- A piece of the state: one register, one byte of memory, one field. -/
inductive Part where
  | reg (r : Reg)
  | index
  | pc
  | stack
  | delay
  | sound
  | paused
  | fatal
  | wait
  | cycle
  | byte (a : Nat)
  | hostOps
  | randomBytes
  | keyReplies
  | toggleReplies
  | freeCount
  | trace
  deriving DecidableEq, Repr

/-- A part is the same in two states. A byte of memory is compared by reading it. -/
def Part.same (s t : State) : Part → Prop
  | .reg r => t.reg r = s.reg r
  | .index => t.I = s.I
  | .pc => t.pc = s.pc
  | .stack => t.depth = s.depth ∧ t.stack = s.stack
  | .delay => t.delay = s.delay
  | .sound => t.sound = s.sound
  | .paused => t.paused = s.paused
  | .fatal => t.fatal = s.fatal
  | .wait => t.wait = s.wait
  | .cycle => t.cycle = s.cycle
  | .byte a => t.mem.read a = s.mem.read a
  | .hostOps => t.env.hostOps = s.env.hostOps
  | .randomBytes => t.env.randomBytes = s.env.randomBytes
  | .keyReplies => t.env.keyReplies = s.env.keyReplies
  | .toggleReplies => t.env.toggleReplies = s.env.toggleReplies
  | .freeCount => t.env.freeCount = s.env.freeCount
  | .trace => t.env.trace = s.env.trace

/-- FRAME: every part not listed is the same in `t` as in `s`; every byte of memory is a part. -/
def UnchangedBut (changed : List Part) (s t : State) : Prop := ∀ p : Part, p ∉ changed → p.same s t

/-- The bytes of memory from `base` upwards, as parts. -/
def byteParts (base count : Nat) : List Part := (List.range count).map fun k => .byte (base + k)

/-- What a fatal condition writes (R240). -/
def fatalParts : List Part := [.fatal, .paused]

/-- THE ACCESS MATRIX of R30, its columns of writes and conditional writes: the parts an instruction may change in a state,
beyond the common advance of `pc`. -/
def Instr.mayWrite (i : Instr) (s : State) : List Part :=
  match i with
  | .clearScreen => [.trace]
  | .ret => [.pc, .stack] ++ fatalParts
  | .jump _ => [.pc]
  | .call _ => [.pc, .stack] ++ fatalParts
  | .skipEqImm _ _ => [.pc]
  | .skipNeImm _ _ => [.pc]
  | .skipEqReg _ _ => [.pc]
  | .loadImm x _ => [.reg x]
  | .addImm x _ => [.reg x]
  | .copy x _ => [.reg x]
  | .orReg x _ => [.reg x]
  | .andReg x _ => [.reg x]
  | .xorReg x _ => [.reg x]
  | .addCarry x _ => [.reg x, .reg VF]
  | .subBorrow x _ => [.reg x, .reg VF]
  | .shiftRight x _ => [.reg x, .reg VF]
  | .reverseSub x _ => [.reg x, .reg VF]
  | .shiftLeft x _ => [.reg x, .reg VF]
  | .skipNeReg _ _ => [.pc]
  | .loadIndex _ => [.index]
  | .jumpV0 _ => [.pc]
  | .random x _ => [.reg x, .randomBytes, .freeCount, .trace]
  | .draw _ _ _ => [.reg VF, .toggleReplies, .freeCount, .trace] ++ fatalParts
  | .skipKey _ => [.pc, .keyReplies, .freeCount, .trace]
  | .skipNotKey _ => [.pc, .keyReplies, .freeCount, .trace]
  | .loadDelay x => [.reg x]
  | .waitKey _ => [.paused, .wait]
  | .storeDelay _ => [.delay]
  | .storeSound _ => [.sound]
  | .addIndex _ => [.index]
  | .loadSpriteAddr _ => .index :: fatalParts
  | .storeBcd _ => byteParts s.I.toNat 3 ++ fatalParts
  | .storeRegs x => byteParts s.I.toNat (x.val + 1) ++ fatalParts
  | .loadRegs x => (regsUpTo x).map .reg ++ fatalParts

/-- THE FATAL CONDITIONS an instruction's handler can raise, and when (R230, R49, R239). -/
def Instr.fatalCondition (i : Instr) (s : State) : Option FatalKind :=
  match i with
  | .ret => if s.sp = -1 then some .stackUnderflow else none
  | .call _ => if s.sp = 15 then some .stackOverflow else none
  | .loadSpriteAddr x => if (s.reg x).toNat > 15 then some .invalidDigit else none
  | .draw _ _ n => if n.toNat > 0 ∧ s.I.toNat + n.toNat - 1 > 4095 then some .addressOutOfRange else none
  | .storeBcd _ => if s.I.toNat + 2 > 4095 then some .addressOutOfRange else none
  | .storeRegs x => if s.I.toNat + x.val > 4095 then some .addressOutOfRange else none
  | .loadRegs x => if s.I.toNat + x.val > 4095 then some .addressOutOfRange else none
  | _ => none

/-- The six instructions that write VF as a flag (R13). -/
def Instr.writesFlag : Instr → Bool
  | .addCarry _ _ => true
  | .subBorrow _ _ => true
  | .shiftRight _ _ => true
  | .reverseSub _ _ => true
  | .shiftLeft _ _ => true
  | .draw _ _ _ => true
  | _ => false

/-- The requests an instruction may issue (R216): each only by the instruction that names it. -/
def Instr.mayRequest : Instr → Request → Bool
  | .clearScreen, .frameClear => true
  | .draw _ _ _, .frameToggle _ => true
  | .skipKey _, .keyIsPressed _ => true
  | .skipNotKey _, .keyIsPressed _ => true
  | .random _ _, .randNext => true
  | _, _ => false

/-- A pixel a sprite covers with a set bit: bit `7 - c` of the byte of row `r` is the pixel at column `V[X] + c` and row
`V[Y] + r`, each modulo the screen's size (R192). -/
def SpriteCovers (s : State) (x y : Reg) (n : BitVec 4) (p : Pixel) : Prop :=
  ∃ r c : Nat, r < n.toNat ∧ c < 8 ∧ (s.mem.read (s.I.toNat + r)).getLsbD (7 - c) = true ∧
    p.1.val = ((s.reg x).toNat + c) % 64 ∧ p.2.val = ((s.reg y).toNat + r) % 32

/-- The pixels `draw Vx,Vy,N` asks the framebuffer to toggle, in the order of R192. -/
def drawPixels (s : State) (x y : Reg) (n : BitVec 4) : List Pixel :=
  spritePixels (s.reg x).toNat (s.reg y).toNat ((List.range n.toNat).map fun r => s.mem.read (s.I.toNat + r))

/-- `GLYPHS` as the table of R42 lists it: one line per digit 0 to F, top row first. Written out here for claims, independently of
the bytes memory is reset to (decision D21, notes/assumptions/3.md). -/
def glyphTable : List (List Byte) :=
  [[0xF0, 0x90, 0x90, 0x90, 0xF0], [0x20, 0x60, 0x20, 0x20, 0x70], [0xF0, 0x10, 0xF0, 0x80, 0xF0],
   [0xF0, 0x10, 0xF0, 0x10, 0xF0], [0x90, 0x90, 0xF0, 0x10, 0x10], [0xF0, 0x80, 0xF0, 0x10, 0xF0],
   [0xF0, 0x80, 0xF0, 0x90, 0xF0], [0xF0, 0x10, 0x20, 0x40, 0x40], [0xF0, 0x90, 0xF0, 0x90, 0xF0],
   [0xF0, 0x90, 0xF0, 0x10, 0xF0], [0xF0, 0x90, 0xF0, 0x90, 0x90], [0xE0, 0x90, 0xE0, 0x90, 0xE0],
   [0xF0, 0x80, 0x80, 0x80, 0xF0], [0xE0, 0x90, 0x90, 0x90, 0xE0], [0xF0, 0x80, 0xF0, 0x80, 0xF0],
   [0xF0, 0x80, 0xF0, 0x80, 0x80]]

/-- Row `r` (0 to 4, from the top) of the glyph of digit `d` (0 to 15). -/
def glyphRow (d r : Nat) : Byte := (glyphTable.getD d []).getD r 0

/-- The byte at an address once `bytes` have been stored from `base` upwards: the stored byte inside the block, the old one
outside it. -/
def byteAfterStore (m : Memory) (base : Nat) (bytes : List Byte) (a : Nat) : Byte :=
  if base ≤ a ∧ a < base + bytes.length then bytes.getD (a - base) 0 else m.read a

/-- `k` steps of the machine. -/
def runSteps : Nat → State → Res State
  | 0, s => .next s
  | k + 1, s => andThen (step s) (runSteps k)

/-- `call` after `call`, each of a target in turn. -/
def runCalls : List (BitVec 12) → State → Res State
  | [], s => .next s
  | a :: as, s => andThen (exec (.call a) s) (runCalls as)

/-- `RunCycle(0)` after `RunCycle(0)`. -/
def runIdleCycles : Nat → State → Res State
  | 0, s => .next s
  | k + 1, s => andThen (runCycle 0 s) (runIdleCycles k)

end Sys2Proof
end

