-- ==== Sys2Proof/Certificates/Slice0/Obligations.lean ====
section
/-! DEFINITION. The statements for the provers. Each docstring names the rule, or the decision of the spec, that it
formalises; a free value is never assumed to be anything. -/

open Sys2Proof Sys2Proof.Machine

/-! Encoding. -/

/-- Decoding the bytes of any instruction, whatever follows them, gives it back with every operand. The bit patterns are
the spec's own choice (30_encoding.md R66; 92_eei_decisions.md D1). -/
def Obligations.DecodeOfEncode : Prop :=
  ∀ (i : Instr) (rest : List Byte), decodeBytes (encodeBytes i ++ rest) = .instr i rest

/-- Bytes that decode to an instruction are the bytes of that instruction: every word has one meaning (R65, R70). -/
def Obligations.EncodeOfDecode : Prop :=
  ∀ (bytes : List Byte) (i : Instr) (rest : List Byte),
    decodeBytes bytes = .instr i rest → bytes = encodeBytes i ++ rest

/-- The decode procedure of R63 accepts exactly the words some row of the opcode map of R66 selects, and decodes them to
that row's instruction; every other word is illegal (R68, R69; D2). -/
def Obligations.DecoderAcceptsExactlyTheOpcodeMap : Prop :=
  ∀ op : Opcode, (decodeOpcode op).isSome = opcodeWellFormed op ∧
    ∀ i, decodeOpcode op = some i → i.row ∈ opcodeTable ∧ i.row.selects op = true

/-- "the rows are pairwise disjoint" (R65): no word selects two rows of the opcode map, which has 34 different ones. -/
def Obligations.OpcodeRowsAreDisjoint : Prop :=
  opcodeTable.length = 34 ∧ opcodeTable.Nodup ∧
    ∀ (op : Opcode) (r r' : OpcodeRow), r ∈ opcodeTable → r' ∈ opcodeTable →
      r.selects op = true → r'.selects op = true → r = r'

/-- Words of 95_test_vectors.md, decoded as it lists them, the high byte first. -/
def Obligations.ListedWordsDecode : Prop :=
  decodeBytes [0x00, 0xE0] = .instr .clearScreen [] ∧
  decodeBytes [0x22, 0x0C] = .instr (.call 0x20C) [] ∧
  decodeBytes [0x4A, 0x10] = .instr (.skipNeImm 10 0x10) [] ∧
  decodeBytes [0x60, 0xFE] = .instr (.loadImm 0 0xFE) [] ∧
  decodeBytes [0x81, 0xF5] = .instr (.subBorrow 1 15) [] ∧
  decodeBytes [0xF0, 0x33] = .instr (.storeBcd 0) [] ∧
  decodeBytes [0xF1, 0x0A] = .instr (.waitKey 1) [] ∧
  decodeBytes [0xD0, 0xF1] = .instr (.draw 0 15 1) [] ∧
  decodeBytes [0x00, 0x00] = .unknownOpcode 0x0000 ∧
  decodeBytes [0x51, 0x21] = .unknownOpcode 0x5121 ∧
  decodeBytes [0xF0] = .truncated

/-! The step and the cycle. -/

/-- A STEP RUNS THE DECODED INSTRUCTION: inside a `RunCycle` with `k + 1` instructions to go, not paused, the two bytes at
`pc` (high byte first, R44) are decoded and the instruction's handler runs with `pc` already advanced by 2 (R84, R86).
The count of instructions to go is the model's own field (notes/assumptions/27.md). -/
def Obligations.StepRunsTheDecodedInstruction : Prop :=
  ∀ (s : State) (k : Nat) (i : Instr), s.cycle = some (k + 1) → s.paused = false → s.pc.toNat ≤ 4094 →
    decodeBytes [s.mem.read s.pc.toNat, s.mem.read (s.pc.toNat + 1)] = .instr i [] →
    step s = exec i { s with pc := s.pc + 2, cycle := some k }

/-- The opcode is the two bytes at `pc`, the byte at the lower address supplying bits 15:8 (R44). -/
def Obligations.FetchIsBigEndian : Prop :=
  ∀ s : State, s.pc.toNat ≤ 4094 → ∃ hi lo : Byte, fetchBytes s = .next [hi, lo] ∧
    (opcodeOfBytes hi lo).toNat = (s.mem.read s.pc.toNat).toNat * 256 + (s.mem.read (s.pc.toNat + 1)).toNat

/-- Where no instruction can be run the step is a fatal condition and changes nothing else: an unknown word is
`UnknownOpcode` with `pc` advanced (R231; decisions D2, D4), and a fetch that would touch address 4096 or more is
`AddressOutOfRange` with `pc` unchanged (R85, R235; decisions D3, D4). -/
def Obligations.StepWithoutAnInstructionHalts : Prop :=
  ∀ (s : State) (k : Nat), s.cycle = some (k + 1) → s.paused = false →
    (∀ op : Opcode, s.pc.toNat ≤ 4094 →
      decodeBytes [s.mem.read s.pc.toNat, s.mem.read (s.pc.toNat + 1)] = .unknownOpcode op →
      ∃ t, step s = .next t ∧ t.fatal = some .unknownOpcode ∧ t.paused = true ∧ t.pc = s.pc + 2 ∧ t.cycle = some k ∧
        UnchangedBut [.pc, .fatal, .paused, .cycle] s t) ∧
    (4095 ≤ s.pc.toNat →
      ∃ t, step s = .next t ∧ t.fatal = some .addressOutOfRange ∧ t.paused = true ∧ t.cycle = some k ∧
        UnchangedBut [.fatal, .paused, .cycle] s t)

/-- From every state the machine goes on: no step faults and none is refused. In particular no access to an address outside
memory gets past the range check of R49. -/
def Obligations.EveryStepIsSafe : Prop := ∀ s : State, SafeStep s

/-- Every step, of an instruction or of a host operation, keeps memory in its canonical form. -/
def Obligations.StepKeepsMemoryCanonical : Prop :=
  ∀ s t : State, s.mem.wf → step s = .next t → t.mem.wf

/-- R26: the pause invariant is true after reset and kept by every operation; so a key can never resume a core that halted on
a fatal condition. -/
def Obligations.PauseInvariantHolds : Prop :=
  PauseConsistent State.reset ∧ (∀ s t : State, PauseConsistent s → step s = .next t → PauseConsistent t) ∧
    ∀ (s : State) (k : Key), PauseConsistent s → s.fatal ≠ none → keyPress k s = s

/-- R17 (with decisions D3, D12): `pc` never exceeds 0x10FE, and neither does a return address on the stack. -/
def Obligations.StepKeepsAddressesBounded : Prop :=
  ∀ s t : State, AddressesBounded s → step s = .next t → AddressesBounded t

/-- The state after reset meets every invariant that the steps keep. -/
def Obligations.ResetMeetsTheInvariants : Prop :=
  State.reset.mem.wf ∧ PauseConsistent State.reset ∧ AddressesBounded State.reset

/-- While paused nothing is fetched and no timer counts: the step inside a cycle only ends it and returns the status, which
tells a fatal condition from a key wait (R82, R83, R91; decisions D14, D15). -/
def Obligations.PausedCycleOnlyReturnsItsStatus : Prop :=
  ∀ (s : State) (k : Nat), s.cycle = some k → s.paused = true →
    ∃ t, step s = .next t ∧ t.cycle = none ∧
      t.env.trace = s.env.trace ++
        [.reply (.status (match s.fatal with | some kind => .halted kind | none => .blockedOnKey))] ∧
      UnchangedBut [.cycle, .trace] s t

/-- R242: a halted core answers every `RunCycle` with `Halted(kind)` and changes nothing, ignores every key, and is not
restarted by `LoadProgram`, which writes memory only. -/
def Obligations.HaltedCoreIgnoresAllButReset : Prop :=
  ∀ (s : State) (kind : FatalKind), PauseConsistent s → s.fatal = some kind →
    (∀ n, ∃ t, runCycle n s = .next t ∧ t.env.trace = s.env.trace ++ [.reply (.status (.halted kind))] ∧
      UnchangedBut [.trace] s t) ∧
    (∀ k, keyPress k s = s) ∧
    (∀ image, UnchangedBut (.trace :: byteParts 0x200 3584) s (loadProgram image s))

/-- "Halts further cycles until the caller resets" (R242): however many steps are run, as long as no `Reset` is among the
operations to come, the kind stays recorded, the core stays paused, and the registers, `I`, `pc`, the stack and the
timers keep their values. -/
def Obligations.HaltLastsUntilReset : Prop :=
  ∀ (k : Nat) (s t : State) (kind : FatalKind), PauseConsistent s → s.fatal = some kind →
    HostOp.reset ∉ s.env.hostOps → runSteps k s = .next t →
    t.fatal = some kind ∧ t.paused = true ∧ t.wait = none ∧ (∀ r, t.reg r = s.reg r) ∧ t.I = s.I ∧ t.pc = s.pc ∧
      t.depth = s.depth ∧ t.stack = s.stack ∧ t.delay = s.delay ∧ t.sound = s.sound

/-- The machine's steps carry out `RunCycle(n)` exactly as R81 writes it as one operation: up to `n` instructions, then one
tick unless the core is paused, then the status. The instruction-by-instruction form is the model's own
(notes/assumptions/27.md; decision D14). -/
def Obligations.StepsRefineRunCycle : Prop :=
  ∀ (n : Nat) (s : State) (rest : List HostOp), s.cycle = none → s.env.hostOps = .runCycle n :: rest →
    ∃ k, k ≤ n + 2 ∧
      runSteps k s = runCycle n { s with env := { s.env with hostOps := rest } }

/-- R90: the tick decrements each timer by 1, floor 0, asks for the tone if the decremented sound timer is above 0 and
otherwise for silence, and then for the frame to be presented; the cycle ends with status `Completed`. -/
def Obligations.TickCountsAndPresents : Prop :=
  ∀ s : State, PauseConsistent s → s.cycle = some 0 → s.paused = false →
    ∃ t, step s = .next t ∧ t.delay.toNat = s.delay.toNat - 1 ∧ t.sound.toNat = s.sound.toNat - 1 ∧ t.cycle = none ∧
      t.env.trace = s.env.trace ++
        [.request (if s.sound.toNat - 1 > 0 then .audioStartTone else .audioStopTone), .request .framePresent,
         .reply (.status .completed)] ∧
      UnchangedBut [.delay, .sound, .cycle, .trace] s t

/-- R95: `RunCycle(0)` runs no instruction; it ticks exactly once (R90), and does nothing at all to the core while paused
(decision D14). What it returns is the status (R82). -/
def Obligations.RunCycleOfZero : Prop :=
  ∀ s : State,
    (s.paused = false → ∃ t, runCycle 0 s = .next t ∧ t.delay.toNat = s.delay.toNat - 1 ∧
      t.sound.toNat = s.sound.toNat - 1 ∧
      t.env.trace = s.env.trace ++
        [.request (if s.sound.toNat - 1 > 0 then .audioStartTone else .audioStopTone), .request .framePresent,
         .reply (.status (status s))] ∧
      UnchangedBut [.delay, .sound, .trace] s t) ∧
    (s.paused = true → ∃ t, runCycle 0 s = .next t ∧ t.env.trace = s.env.trace ++ [.reply (.status (status s))] ∧
      UnchangedBut [.trace] s t)

/-- Over `k` cycles in which no instruction runs, each timer falls by `k`, never below 0 (R245, 95_test_vectors.md S9), and
every cycle asks for one present (R207). -/
def Obligations.TimersFallByOnePerCycle : Prop :=
  ∀ (k : Nat) (s : State), s.paused = false →
    ∃ t, runIdleCycles k s = .next t ∧ t.delay.toNat = s.delay.toNat - k ∧ t.sound.toNat = s.sound.toNat - k ∧
      ∃ evs, t.env.trace = s.env.trace ++ evs ∧ evs.count (.request .framePresent) = k ∧
        evs.count (.request .audioStartTone) = min k (s.sound.toNat - 1)

/-! Host operations. -/

/-- R262, R263: `Reset` between cycles gives the same state of the core whatever the state before, the state of
`State.reset`; the collaborators and the operations to come are not touched (R261). -/
def Obligations.ResetIsHistoryFree : Prop :=
  ∀ (s : State) (rest : List HostOp), s.cycle = none → s.env.hostOps = .reset :: rest →
    step s = .next { State.reset with env := { s.env with hostOps := rest } } ∧ resetCore (resetCore s) = resetCore s

/-- R29: the value of every piece of the core's state after reset. Each of the 80 glyph bytes stands where R41 places it and is
the byte R42 lists for its digit and row (the bytes are the spec's own choice, D21, notes/assumptions/3.md; their sum is the
13008 of 95_test_vectors.md S10), and all bytes above them are 0. `I`, the stack's slots, `fatal` and `wait` are decision
D25. -/
def Obligations.ResetValues : Prop :=
  (∀ (d : Fin 16) (r : Fin 5), State.reset.mem.read (5 * d.val + r.val) = glyphRow d.val r.val) ∧
  (∀ a, 0x050 ≤ a → State.reset.mem.read a = 0) ∧
  ((List.range 80).map fun a => (State.reset.mem.read a).toNat).sum = 13008 ∧
  (∀ r, State.reset.reg r = 0) ∧ State.reset.I = 0 ∧ State.reset.pc = 0x200 ∧ State.reset.sp = -1 ∧
  (∀ k : Fin 16, State.reset.stack[k.val] = 0) ∧ State.reset.delay = 0 ∧ State.reset.sound = 0 ∧
  State.reset.paused = false ∧ State.reset.fatal = none ∧ State.reset.wait = none

/-- R92: an image that fits is copied to 0x200 upwards, nothing else changes, and the reply is `Loaded`; one that does not
fit is refused whole, with `LoadTooLarge`, and is not a fatal condition (decisions D20, D34). -/
def Obligations.LoadProgramCopiesOrRefuses : Prop :=
  ∀ (s : State) (image : List Byte) (rest : List HostOp), s.cycle = none →
    s.env.hostOps = .loadProgram image :: rest →
    (image.length ≤ 3584 → ∃ t, step s = .next t ∧
      (∀ k : Fin image.length, t.mem.read (0x200 + k.val) = image[k.val]) ∧
      t.env.hostOps = rest ∧ t.env.trace = s.env.trace ++ [.reply .loaded] ∧
      UnchangedBut (.hostOps :: .trace :: byteParts 0x200 image.length) s t) ∧
    (3584 < image.length → ∃ t, step s = .next t ∧ t.env.hostOps = rest ∧
      t.env.trace = s.env.trace ++ [.reply .loadTooLarge] ∧ UnchangedBut [.hostOps, .trace] s t)

/-- R177 (decisions D16, D18): a key ends a pending wait, its code going to the waiting register; with no wait pending it
changes nothing. -/
def Obligations.KeyPressEndsAPendingWait : Prop :=
  ∀ (s : State) (k : Key) (rest : List HostOp), s.cycle = none → s.env.hostOps = .keyPress k :: rest →
    (∀ x, s.wait = some x → ∃ t, step s = .next t ∧ (t.reg x).toNat = k.val ∧ t.wait = none ∧ t.paused = false ∧
      t.env.hostOps = rest ∧ UnchangedBut [.reg x, .wait, .paused, .hostOps] s t) ∧
    (s.wait = none → ∃ t, step s = .next t ∧ t.env.hostOps = rest ∧ UnchangedBut [.hostOps] s t)

/-- R176 with R177: `wait-for-key` pauses the core and writes no register; the next key's code arrives in the register it names,
and a core that was running is then as it was but for that register (decision D16). -/
def Obligations.WaitForKeyThenKey : Prop :=
  ∀ (x : Reg) (s : State), ∃ t, exec (.waitKey x) s = .next t ∧ t.paused = true ∧ t.wait = some x ∧
    UnchangedBut [.paused, .wait] s t ∧
    ∀ k : Key, ((keyPress k t).reg x).toNat = k.val ∧ (keyPress k t).wait = none ∧ (keyPress k t).paused = false ∧
      UnchangedBut [.reg x, .paused, .wait] s (keyPress k t) ∧
      (s.paused = false → s.wait = none → UnchangedBut [.reg x] s (keyPress k t))

/-! Rules over all instructions. -/

/-- R30, the columns of writes: no instruction changes a part of the state that the access matrix does not give it. -/
def Obligations.AccessMatrixOfWrites : Prop :=
  ∀ (i : Instr) (s t : State), exec i s = .next t → UnchangedBut (i.mayWrite s) s t

/-- R230 and R241 (decisions D3, D4): an instruction whose fatal condition holds records the kind and pauses, and does nothing
else; every other instruction completes and records none. -/
def Obligations.FatalConditionsArePrecise : Prop :=
  ∀ (i : Instr) (s : State), match i.fatalCondition s with
    | some kind => exec i s = .next { s with fatal := some kind, paused := true }
    | none => ∃ t, exec i s = .next t ∧ t.fatal = s.fatal

/-- R13: the six flag-writing instructions write VF every time they complete, with 1 or 0; an instruction that is none of
them changes VF only if VF is a destination it names. -/
def Obligations.OnlySixInstructionsWriteTheFlag : Prop :=
  ∀ (i : Instr) (s t : State), exec i s = .next t → i.fatalCondition s = none →
    (i.writesFlag = true → t.reg VF = 0 ∨ t.reg VF = 1) ∧
    (i.writesFlag = false → Part.reg VF ∉ i.mayWrite s → t.reg VF = s.reg VF)

/-- R216, R213: an instruction adds to what the observer sees only requests that it names itself. -/
def Obligations.RequestsComeFromTheirInstructions : Prop :=
  ∀ (i : Instr) (s t : State), exec i s = .next t →
    ∃ reqs : List Request, t.env.trace = s.env.trace ++ reqs.map Event.request ∧ ∀ r ∈ reqs, i.mayRequest r = true

/-- R54, R272 (decision D31): what an instruction stores is what the very next fetch reads. After `store-registers` or
`store-BCD` inside memory, each of the two bytes fetched at `pc` is the stored byte where the store reached it and the old byte
where it did not. -/
def Obligations.StoreIsSeenByTheNextFetch : Prop :=
  ∀ (x : Reg) (s : State), s.pc.toNat ≤ 4094 →
    (s.I.toNat + x.val ≤ 4095 → ∃ t, exec (.storeRegs x) s = .next t ∧ fetchBytes t = .next
      ([s.pc.toNat, s.pc.toNat + 1].map (byteAfterStore s.mem s.I.toNat ((regsUpTo x).map s.reg)))) ∧
    (s.I.toNat + 2 ≤ 4095 → ∃ t, exec (.storeBcd x) s = .next t ∧ fetchBytes t = .next
      ([s.pc.toNat, s.pc.toNat + 1].map (byteAfterStore s.mem s.I.toNat (bcdDigits (s.reg x)))))

/-! Control transfer and skips. -/

/-- R102: `pc := NNN`. -/
def Obligations.JumpSetsPc : Prop :=
  ∀ (nnn : BitVec 12) (s : State), ∃ t, exec (.jump nnn) s = .next t ∧ t.pc.toNat = nnn.toNat ∧ UnchangedBut [.pc] s t

/-- R104 (decision D12: neither masked nor wrapped): `pc := NNN + V0`. -/
def Obligations.IndexedJumpAddsV0 : Prop :=
  ∀ (nnn : BitVec 12) (s : State),
    ∃ t, exec (.jumpV0 nnn) s = .next t ∧ t.pc.toNat = nnn.toNat + (s.reg 0).toNat ∧ UnchangedBut [.pc] s t

/-- R103: below 16 entries, `call` pushes the advanced `pc` and jumps; at 16 it is `StackOverflow`, with nothing pushed and
`pc` not set to `NNN` (decisions D4, D26). -/
def Obligations.CallPushesTheReturnAddress : Prop :=
  ∀ (nnn : BitVec 12) (s : State),
    (s.sp < 15 → ∃ t, exec (.call nnn) s = .next t ∧ t.pc.toNat = nnn.toNat ∧ t.sp = s.sp + 1 ∧
      t.stack[s.depth.val]? = some s.pc ∧ (∀ k, k ≠ s.depth.val → t.stack[k]? = s.stack[k]?) ∧
      UnchangedBut [.pc, .stack] s t) ∧
    (s.sp = 15 → ∃ t, exec (.call nnn) s = .next t ∧ t.fatal = some .stackOverflow ∧ t.paused = true ∧
      UnchangedBut [.fatal, .paused] s t)

/-- R101: `return` pops the slot the stack pointer selects into `pc`, with no extra +2; on an empty stack it is
`StackUnderflow` and changes nothing else (decisions D4, D26). -/
def Obligations.ReturnPopsTheReturnAddress : Prop :=
  ∀ s : State,
    (0 ≤ s.sp → ∃ t, exec .ret s = .next t ∧ some t.pc = s.stack[s.depth.val - 1]? ∧ t.sp = s.sp - 1 ∧
      t.stack = s.stack ∧ UnchangedBut [.pc, .stack] s t) ∧
    (s.sp = -1 → ∃ t, exec .ret s = .next t ∧ t.fatal = some .stackUnderflow ∧ t.paused = true ∧
      UnchangedBut [.fatal, .paused] s t)

/-- R103 (CE §8): whatever runs between, if it leaves the stack as deep as the call left it and the one slot the call wrote as it
is, the return resumes at the `pc` that was active when the call executed. Slots above that one may hold anything, as nested
calls and returns leave them (decision D26). -/
def Obligations.ReturnResumesAfterTheCall : Prop :=
  ∀ (nnn : BitVec 12) (s t u : State), s.sp < 15 → exec (.call nnn) s = .next t → u.depth = t.depth →
    u.stack[s.depth.val]? = t.stack[s.depth.val]? →
    ∃ w, exec .ret u = .next w ∧ w.pc = s.pc ∧ w.depth = s.depth

/-- R103 (CE §8), R276: from an empty stack 16 nested calls succeed, and the 17th is `StackOverflow`. -/
def Obligations.SixteenCallsThenOverflow : Prop :=
  ∀ (targets : List (BitVec 12)) (s : State), s.sp = -1 → s.fatal = none →
    (targets.length ≤ 16 → ∃ t, runCalls targets s = .next t ∧ t.sp = s.sp + targets.length ∧ t.fatal = none) ∧
    (targets.length = 17 → ∃ t, runCalls targets s = .next t ∧ t.sp = 15 ∧ t.fatal = some .stackOverflow)

/-- R105 to R108: a skip whose condition holds leaves `pc` a further 2 ahead, and one whose condition fails leaves it. -/
def Obligations.ConditionalSkips : Prop :=
  ∀ (x y : Reg) (nn : Byte) (s : State),
    (∃ t, exec (.skipEqImm x nn) s = .next t ∧ t.pc = (if s.reg x = nn then s.pc + 2 else s.pc) ∧
      UnchangedBut [.pc] s t) ∧
    (∃ t, exec (.skipNeImm x nn) s = .next t ∧ t.pc = (if s.reg x ≠ nn then s.pc + 2 else s.pc) ∧
      UnchangedBut [.pc] s t) ∧
    (∃ t, exec (.skipEqReg x y) s = .next t ∧ t.pc = (if s.reg x = s.reg y then s.pc + 2 else s.pc) ∧
      UnchangedBut [.pc] s t) ∧
    (∃ t, exec (.skipNeReg x y) s = .next t ∧ t.pc = (if s.reg x ≠ s.reg y then s.pc + 2 else s.pc) ∧
      UnchangedBut [.pc] s t)

/-! Immediate operations. -/

/-- R121: `Vx := NN`. -/
def Obligations.LoadImmediate : Prop :=
  ∀ (x : Reg) (nn : Byte) (s : State), ∃ t, exec (.loadImm x nn) s = .next t ∧ t.reg x = nn ∧ UnchangedBut [.reg x] s t

/-- R122: `Vx := (Vx + NN) mod 256`, and no flag is touched. -/
def Obligations.AddImmediate : Prop :=
  ∀ (x : Reg) (nn : Byte) (s : State), ∃ t, exec (.addImm x nn) s = .next t ∧
    (t.reg x).toNat = ((s.reg x).toNat + nn.toNat) % 256 ∧ UnchangedBut [.reg x] s t

/-- R123 (decision D23): one byte is drawn and ANDed with `NN`. A byte the environment has settled is the one drawn and is used
up; otherwise the byte is a free value, of which nothing is assumed. -/
def Obligations.RandomAndsOneDraw : Prop :=
  ∀ (x : Reg) (nn : Byte) (s : State), ∃ (r : Byte) (t : State), exec (.random x nn) s = .next t ∧ t.reg x = r &&& nn ∧
    (∀ b bs, s.env.randomBytes = b :: bs → r = b ∧ t.env.randomBytes = bs ∧ t.env.freeCount = s.env.freeCount) ∧
    t.env.trace = s.env.trace ++ [.request .randNext] ∧
    UnchangedBut [.reg x, .randomBytes, .freeCount, .trace] s t

/-! Register-register operations. -/

/-- R131 to R134 (decision D7: VF is unchanged unless it is the destination). -/
def Obligations.CopyAndLogic : Prop :=
  ∀ (x y : Reg) (s : State),
    (∃ t, exec (.copy x y) s = .next t ∧ t.reg x = s.reg y ∧ UnchangedBut [.reg x] s t) ∧
    (∃ t, exec (.orReg x y) s = .next t ∧ UnchangedBut [.reg x] s t ∧
      ∀ b, b < 8 → (t.reg x).getLsbD b = ((s.reg x).getLsbD b || (s.reg y).getLsbD b)) ∧
    (∃ t, exec (.andReg x y) s = .next t ∧ UnchangedBut [.reg x] s t ∧
      ∀ b, b < 8 → (t.reg x).getLsbD b = ((s.reg x).getLsbD b && (s.reg y).getLsbD b)) ∧
    (∃ t, exec (.xorReg x y) s = .next t ∧ UnchangedBut [.reg x] s t ∧
      ∀ b, b < 8 → (t.reg x).getLsbD b = ((s.reg x).getLsbD b != (s.reg y).getLsbD b))

/-- R135, R140: the sum modulo 256, VF the carry, written last (decisions D5, D6, D9: with `X = F` the flag stays). -/
def Obligations.AddWithCarry : Prop :=
  ∀ (x y : Reg) (s : State), ∃ t, exec (.addCarry x y) s = .next t ∧
    t.reg VF = (if (s.reg x).toNat + (s.reg y).toNat > 255 then 1 else 0) ∧
    (x ≠ VF → (t.reg x).toNat = ((s.reg x).toNat + (s.reg y).toNat) % 256) ∧ UnchangedBut [.reg x, .reg VF] s t

/-- R136, R138, R140: the difference modulo 256 in both orders, VF whether the minuend is strictly greater, written last
(decisions D5, D6, D9). -/
def Obligations.SubtractBothOrders : Prop :=
  ∀ (x y : Reg) (s : State),
    (∃ t, exec (.subBorrow x y) s = .next t ∧ t.reg VF = (if (s.reg x).toNat > (s.reg y).toNat then 1 else 0) ∧
      (x ≠ VF → ((t.reg x).toNat : Int) = ((s.reg x).toNat - (s.reg y).toNat : Int) % 256) ∧
      UnchangedBut [.reg x, .reg VF] s t) ∧
    (∃ t, exec (.reverseSub x y) s = .next t ∧ t.reg VF = (if (s.reg y).toNat > (s.reg x).toNat then 1 else 0) ∧
      (x ≠ VF → ((t.reg x).toNat : Int) = ((s.reg y).toNat - (s.reg x).toNat : Int) % 256) ∧
      UnchangedBut [.reg x, .reg VF] s t)

/-- R137, R139: V[X] is shifted in place by one bit whatever Y is, a 0 comes in, and VF is the bit shifted out, written last
(decisions D5, D8). -/
def Obligations.ShiftsByOne : Prop :=
  ∀ (x y : Reg) (s : State),
    (∃ t, exec (.shiftRight x y) s = .next t ∧ t.reg VF = (if (s.reg x).getLsbD 0 then 1 else 0) ∧
      (x ≠ VF → t.reg x = (s.reg x).ushiftRight 1) ∧ UnchangedBut [.reg x, .reg VF] s t) ∧
    (∃ t, exec (.shiftLeft x y) s = .next t ∧ t.reg VF = (if (s.reg x).getLsbD 7 then 1 else 0) ∧
      (x ≠ VF → t.reg x = (s.reg x).shiftLeft 1) ∧ UnchangedBut [.reg x, .reg VF] s t)

/-! Index and memory. -/

/-- R151: `I := NNN`. -/
def Obligations.LoadIndex : Prop :=
  ∀ (nnn : BitVec 12) (s : State), ∃ t, exec (.loadIndex nnn) s = .next t ∧ t.I.toNat = nnn.toNat ∧
    UnchangedBut [.index] s t

/-- R152 (decision D10): `I := (I + Vx) mod 65536`, with no flag. -/
def Obligations.AddIndex : Prop :=
  ∀ (x : Reg) (s : State), ∃ t, exec (.addIndex x) s = .next t ∧
    t.I.toNat = (s.I.toNat + (s.reg x).toNat) % 65536 ∧ UnchangedBut [.index] s t

/-- R153: `I := Vx * 5` for a digit 0 to 15, which is where the five bytes of the digit's glyph stand after reset (R41; the bytes
are decision D21); any greater value is `InvalidDigit` and leaves `I` (decision D4). -/
def Obligations.SpriteAddressOfADigit : Prop :=
  ∀ (x : Reg) (s : State),
    ((s.reg x).toNat ≤ 15 → ∃ t, exec (.loadSpriteAddr x) s = .next t ∧ t.I.toNat = (s.reg x).toNat * 5 ∧
      (∀ r : Fin 5, State.reset.mem.read (t.I.toNat + r.val) = glyphRow (s.reg x).toNat r.val) ∧
      UnchangedBut [.index] s t) ∧
    (15 < (s.reg x).toNat → ∃ t, exec (.loadSpriteAddr x) s = .next t ∧ t.fatal = some .invalidDigit ∧ t.paused = true ∧
      UnchangedBut [.fatal, .paused] s t)

/-- R154 (decisions D11, D13): three decimal digits, hundreds first, whose number is the register's value; an address above
4095 is `AddressOutOfRange` and nothing is written (decisions D3, D4). -/
def Obligations.StoreBcdWritesThreeDigits : Prop :=
  ∀ (x : Reg) (s : State),
    (s.I.toNat + 2 ≤ 4095 → ∃ (t : State) (h d u : Nat), exec (.storeBcd x) s = .next t ∧ h < 10 ∧ d < 10 ∧ u < 10 ∧
      h * 100 + d * 10 + u = (s.reg x).toNat ∧ (t.mem.read s.I.toNat).toNat = h ∧
      (t.mem.read (s.I.toNat + 1)).toNat = d ∧ (t.mem.read (s.I.toNat + 2)).toNat = u ∧
      UnchangedBut (byteParts s.I.toNat 3) s t) ∧
    (4095 < s.I.toNat + 2 → ∃ t, exec (.storeBcd x) s = .next t ∧ t.fatal = some .addressOutOfRange ∧ t.paused = true ∧
      UnchangedBut [.fatal, .paused] s t)

/-- R155 (decision D11): V[0] to V[X] go to `I` upwards, and no other byte changes; out of range nothing is written
(decisions D3, D4). -/
def Obligations.StoreRegistersWritesTheBlock : Prop :=
  ∀ (x : Reg) (s : State),
    (s.I.toNat + x.val ≤ 4095 → ∃ t, exec (.storeRegs x) s = .next t ∧
      (∀ r : Reg, r ≤ x → t.mem.read (s.I.toNat + r.val) = s.reg r) ∧
      UnchangedBut (byteParts s.I.toNat (x.val + 1)) s t) ∧
    (4095 < s.I.toNat + x.val → ∃ t, exec (.storeRegs x) s = .next t ∧ t.fatal = some .addressOutOfRange ∧
      t.paused = true ∧ UnchangedBut [.fatal, .paused] s t)

/-- R156 (decision D11): the bytes from `I` upwards go to V[0] to V[X], and no other register changes; out of range none does
(decisions D3, D4). -/
def Obligations.LoadRegistersReadsTheBlock : Prop :=
  ∀ (x : Reg) (s : State),
    (s.I.toNat + x.val ≤ 4095 → ∃ t, exec (.loadRegs x) s = .next t ∧
      (∀ r : Reg, r ≤ x → t.reg r = s.mem.read (s.I.toNat + r.val)) ∧
      UnchangedBut ((regsUpTo x).map Part.reg) s t) ∧
    (4095 < s.I.toNat + x.val → ∃ t, exec (.loadRegs x) s = .next t ∧ t.fatal = some .addressOutOfRange ∧
      t.paused = true ∧ UnchangedBut [.fatal, .paused] s t)

/-- R155 with R156: what `store-registers` saved, `load-registers` brings back into V[0] to V[X], whatever those registers
have become, as long as memory and `I` are as the store left them. -/
def Obligations.StoredRegistersLoadBack : Prop :=
  ∀ (x : Reg) (s t u : State), s.I.toNat + x.val ≤ 4095 → exec (.storeRegs x) s = .next t → u.mem = t.mem → u.I = t.I →
    ∃ w, exec (.loadRegs x) u = .next w ∧ ∀ r : Reg, w.reg r = if r ≤ x then s.reg r else u.reg r

/-! Timers and keys. -/

/-- R171 to R173: the moves between a register and the timers; no audio request is issued. -/
def Obligations.TimerMoves : Prop :=
  ∀ (x : Reg) (s : State),
    (∃ t, exec (.loadDelay x) s = .next t ∧ t.reg x = s.delay ∧ UnchangedBut [.reg x] s t) ∧
    (∃ t, exec (.storeDelay x) s = .next t ∧ t.delay = s.reg x ∧ UnchangedBut [.delay] s t) ∧
    (∃ t, exec (.storeSound x) s = .next t ∧ t.sound = s.reg x ∧ UnchangedBut [.sound] s t)

/-- R174, R175 for a key code 0 to 15: one query is made, and the two skips are taken on opposite replies. A reply the
environment has settled is the one used; otherwise the reply is a free value, of which nothing is assumed. -/
def Obligations.KeySkipsAskOnce : Prop :=
  ∀ (x : Reg) (k : Key) (s : State), (s.reg x).toNat = k.val →
    ∃ (held : Bool) (t u : State), exec (.skipKey x) s = .next t ∧ exec (.skipNotKey x) s = .next u ∧
      t.pc = (if held then s.pc + 2 else s.pc) ∧ u.pc = (if held then s.pc else s.pc + 2) ∧
      (∀ b bs, s.env.keyReplies = b :: bs → held = b ∧ t.env.keyReplies = bs ∧ u.env.keyReplies = bs) ∧
      t.env.trace = s.env.trace ++ [.request (.keyIsPressed k)] ∧
      u.env.trace = s.env.trace ++ [.request (.keyIsPressed k)] ∧
      UnchangedBut [.pc, .keyReplies, .freeCount, .trace] s t ∧
      UnchangedBut [.pc, .keyReplies, .freeCount, .trace] s u

/-- R174, R175 for a value above 15 (decision D17): no query is made and the key counts as not pressed. -/
def Obligations.KeySkipsOfNoKey : Prop :=
  ∀ (x : Reg) (s : State), 15 < (s.reg x).toNat →
    (∃ t, exec (.skipKey x) s = .next t ∧ UnchangedBut [] s t) ∧
    (∃ u, exec (.skipNotKey x) s = .next u ∧ u.pc = s.pc + 2 ∧ UnchangedBut [.pc] s u)

/-! Display. -/

/-- R191: one `clear` request and no other change. -/
def Obligations.ClearScreenRequestsClear : Prop :=
  ∀ s : State, ∃ t, exec .clearScreen s = .next t ∧ t.env.trace = s.env.trace ++ [.request .frameClear] ∧
    UnchangedBut [.trace] s t

/-- R192 (decisions D6, D22): a sprite inside memory, or one of no rows, issues one `toggle` for each set bit, rows downward and
bit 7 first, from the coordinates the registers held before. VF becomes 1 or 0, and 0 with no rows. Where the environment has
settled the reply of every toggle, VF is 1 exactly if one of them said that the pixel was set. -/
def Obligations.DrawTogglesEachSetBit : Prop :=
  ∀ (x y : Reg) (n : BitVec 4) (s : State), n.toNat = 0 ∨ s.I.toNat + n.toNat - 1 ≤ 4095 →
    ∃ t, exec (.draw x y n) s = .next t ∧
      t.env.trace = s.env.trace ++ (drawPixels s x y n).map (fun p => .request (.frameToggle p)) ∧
      (t.reg VF = 0 ∨ t.reg VF = 1) ∧ (n.toNat = 0 → t.reg VF = 0) ∧
      (∀ replies rest : List Bool, s.env.toggleReplies = replies ++ rest → replies.length = (drawPixels s x y n).length →
        t.reg VF = (if true ∈ replies then 1 else 0) ∧ t.env.toggleReplies = rest ∧
          t.env.freeCount = s.env.freeCount) ∧
      UnchangedBut [.reg VF, .toggleReplies, .freeCount, .trace] s t

/-- R193(a): the pixels one `draw` toggles are pairwise distinct, and they are exactly those under a set bit of the sprite. -/
def Obligations.DrawnPixelsAreDistinct : Prop :=
  ∀ (x y : Reg) (n : BitVec 4) (s : State),
    (drawPixels s x y n).Nodup ∧ ∀ p, p ∈ drawPixels s x y n ↔ SpriteCovers s x y n p

/-- R193(b): with the replies of the reference framebuffer of R214, which this statement assumes, every covered pixel becomes
`old XOR 1`, every other pixel stays, and VF = 1 iff some covered pixel was set. -/
def Obligations.DrawOnTheReferenceFrame : Prop :=
  ∀ (x y : Reg) (n : BitVec 4) (s : State) (f : Frame) (rest : List Bool),
    n.toNat = 0 ∨ s.I.toNat + n.toNat - 1 ≤ 4095 → s.env.toggleReplies = f.replies (drawPixels s x y n) ++ rest →
    ∃ (t : State) (evs : List Event), exec (.draw x y n) s = .next t ∧ t.env.trace = s.env.trace ++ evs ∧
      (∀ p, SpriteCovers s x y n p → f.after evs p = !f p) ∧ (∀ p, ¬SpriteCovers s x y n p → f.after evs p = f p) ∧
      ((∃ p, SpriteCovers s x y n p ∧ f p = true) → t.reg VF = 1) ∧
      (¬(∃ p, SpriteCovers s x y n p ∧ f p = true) → t.reg VF = 0)

/-- R192 (CE §8): on an empty reference framebuffer, which this statement assumes, drawing the same sprite twice turns every
pixel off again, and VF is 0 after the first draw and 1 after the second if the sprite is not empty. -/
def Obligations.DrawingTwiceErasesTheSprite : Prop :=
  ∀ (x y : Reg) (n : BitVec 4) (s : State) (rest : List Bool), x ≠ VF → y ≠ VF →
    n.toNat = 0 ∨ s.I.toNat + n.toNat - 1 ≤ 4095 →
    s.env.toggleReplies = Frame.blank.replies (drawPixels s x y n ++ drawPixels s x y n) ++ rest →
    ∃ (t u : State) (evs : List Event), exec (.draw x y n) s = .next t ∧ exec (.draw x y n) t = .next u ∧
      u.env.trace = s.env.trace ++ evs ∧ Frame.blank.after evs = Frame.blank ∧ t.reg VF = 0 ∧
      (drawPixels s x y n ≠ [] → u.reg VF = 1)
end

