-- ==== Sys2Proof/Laws/Decode.lean ====
section
/-! SUPPORT. What the fields of spec R62 read from a word written in each format of R61, and from the two bytes of a word. -/

namespace Sys2Proof

/-- The high part of a concatenation. -/
theorem extract_append_high {n m : Nat} (a : BitVec n) (b : BitVec m) : (a ++ b).extractLsb' m n = a := by
  ext i hi
  simp [BitVec.getLsbD_append, BitVec.getLsbD_eq_getElem hi]

/-- A slice that lies in the low part of a concatenation. -/
theorem extract_append_low {n m k : Nat} (a : BitVec n) (b : BitVec m) (start : Nat) (h : start + k ≤ m) :
    (a ++ b).extractLsb' start k = b.extractLsb' start k := by
  ext i hi
  simp [BitVec.getLsbD_append]
  intro hm
  omega

/-- The whole of a bit vector. -/
theorem extract_self {m : Nat} (b : BitVec m) : b.extractLsb' 0 m = b := by
  ext i hi
  simp

section
variable (f : BitVec 4) (x y : Reg) (n : BitVec 4) (nn : Byte) (nnn : BitVec 12)

@[simp] theorem opFamily_encodeNNN : opFamily (encodeNNN f nnn) = f.toNat :=
  congrArg BitVec.toNat (extract_append_high f nnn)

@[simp] theorem opNNN_encodeNNN : opNNN (encodeNNN f nnn) = nnn :=
  (extract_append_low f nnn 0 (by decide)).trans (extract_self nnn)

@[simp] theorem opFamily_encodeXNN : opFamily (encodeXNN f x nn) = f.toNat :=
  congrArg BitVec.toNat (extract_append_high f (regField x ++ nn))

@[simp] theorem opX_encodeXNN : opX (encodeXNN f x nn) = x :=
  congrArg BitVec.toFin
    ((extract_append_low f (regField x ++ nn) 8 (by decide)).trans (extract_append_high (regField x) nn))

@[simp] theorem opNN_encodeXNN : opNN (encodeXNN f x nn) = nn :=
  (extract_append_low f (regField x ++ nn) 0 (by decide)).trans
    ((extract_append_low (regField x) nn 0 (by decide)).trans (extract_self nn))

@[simp] theorem opFamily_encodeXYN : opFamily (encodeXYN f x y n) = f.toNat :=
  congrArg BitVec.toNat (extract_append_high f (regField x ++ (regField y ++ n)))

@[simp] theorem opX_encodeXYN : opX (encodeXYN f x y n) = x :=
  congrArg BitVec.toFin ((extract_append_low f (regField x ++ (regField y ++ n)) 8 (by decide)).trans
    (extract_append_high (regField x) (regField y ++ n)))

@[simp] theorem opY_encodeXYN : opY (encodeXYN f x y n) = y :=
  congrArg BitVec.toFin ((extract_append_low f (regField x ++ (regField y ++ n)) 4 (by decide)).trans
    ((extract_append_low (regField x) (regField y ++ n) 4 (by decide)).trans (extract_append_high (regField y) n)))

@[simp] theorem opN_encodeXYN : opN (encodeXYN f x y n) = n :=
  (extract_append_low f (regField x ++ (regField y ++ n)) 0 (by decide)).trans
    ((extract_append_low (regField x) (regField y ++ n) 0 (by decide)).trans
      ((extract_append_low (regField y) n 0 (by decide)).trans (extract_self n)))

end

/-- The two bytes of a word, put together again big-endian (spec R44). -/
@[simp] theorem opcodeOfBytes_hi_lo (op : Opcode) : opcodeOfBytes (opcodeHi op) (opcodeLo op) = op := by
  have h : op.extractLsb' 8 8 ++ op.extractLsb' 0 8 = op.extractLsb' 0 (8 + 8) :=
    BitVec.extractLsb'_append_extractLsb'_eq_extractLsb' rfl
  exact h.trans (extract_self op)

/-- Outside family 0 the family decides. -/
theorem decodeOpcode_of_family {op : Opcode} (h : opFamily op ≠ 0) : decodeOpcode op = decodeFamily op := by
  have h1 : op ≠ 0x00E0 := by rintro rfl; exact h (by decide)
  have h2 : op ≠ 0x00EE := by rintro rfl; exact h (by decide)
  rw [decodeOpcode, if_neg h1, if_neg h2]

/-! A word is put together again from the fields of its format. -/

theorem encodeNNN_fields (op : Opcode) : encodeNNN (op.extractLsb' 12 4) (opNNN op) = op := by
  have h : op.extractLsb' 12 4 ++ op.extractLsb' 0 12 = op.extractLsb' 0 (4 + 12) :=
    BitVec.extractLsb'_append_extractLsb'_eq_extractLsb' rfl
  exact h.trans (extract_self op)

theorem encodeXNN_fields (op : Opcode) : encodeXNN (op.extractLsb' 12 4) (opX op) (opNN op) = op := by
  have h : op.extractLsb' 8 4 ++ op.extractLsb' 0 8 = op.extractLsb' 0 (4 + 8) :=
    BitVec.extractLsb'_append_extractLsb'_eq_extractLsb' rfl
  exact (congrArg (fun z : BitVec 12 => op.extractLsb' 12 4 ++ z) h).trans (encodeNNN_fields op)

theorem encodeXYN_fields (op : Opcode) : encodeXYN (op.extractLsb' 12 4) (opX op) (opY op) (opN op) = op := by
  have h : op.extractLsb' 4 4 ++ op.extractLsb' 0 4 = op.extractLsb' 0 (4 + 4) :=
    BitVec.extractLsb'_append_extractLsb'_eq_extractLsb' rfl
  exact (congrArg (fun z : BitVec 8 => op.extractLsb' 12 4 ++ (op.extractLsb' 8 4 ++ z)) h).trans (encodeXNN_fields op)

/-! The masks of the opcode map, format by format (spec R65). -/

/-- Format `NNN`: the family is fixed. -/
theorem encodeNNN_selects {f : BitVec 4} {p : Opcode} (hp : f ++ 0#12 = p) (nnn : BitVec 12) :
    (OpcodeRow.mk p 0xF000).selects (encodeNNN f nnn) = true := by
  have h : (f ++ nnn) &&& (0xF#4 ++ 0#12) = (f &&& 0xF#4) ++ (nnn &&& 0#12) := BitVec.and_append
  have hf : f &&& 0xF#4 = f := BitVec.and_allOnes
  rw [hf, BitVec.and_zero, hp] at h
  exact beq_iff_eq.mpr h

/-- Format `XNN`: the family is fixed. -/
theorem encodeXNN_selects {f : BitVec 4} {p : Opcode} (hp : f ++ 0#12 = p) (x : Reg) (nn : Byte) :
    (OpcodeRow.mk p 0xF000).selects (encodeXNN f x nn) = true := encodeNNN_selects hp (regField x ++ nn)

/-- Format `XYN`: the family is fixed. -/
theorem encodeXYN_selects {f : BitVec 4} {p : Opcode} (hp : f ++ 0#12 = p) (x y : Reg) (n : BitVec 4) :
    (OpcodeRow.mk p 0xF000).selects (encodeXYN f x y n) = true := encodeNNN_selects hp (regField x ++ (regField y ++ n))

/-- Format `Xss`: the family and the low byte are fixed. -/
theorem encodeXss_selects {f : BitVec 4} {ss : Byte} {p : Opcode} (hp : f ++ (0#4 ++ ss) = p) (x : Reg) :
    (OpcodeRow.mk p 0xF0FF).selects (encodeXNN f x ss) = true := by
  have h : (f ++ (regField x ++ ss)) &&& (0xF#4 ++ (0#4 ++ 0xFF#8)) =
      (f &&& 0xF#4) ++ ((regField x &&& 0#4) ++ (ss &&& 0xFF#8)) := by
    rw [BitVec.and_append, BitVec.and_append]
  have hf : f &&& 0xF#4 = f := BitVec.and_allOnes
  have hs : ss &&& 0xFF#8 = ss := BitVec.and_allOnes
  rw [hf, hs, BitVec.and_zero, hp] at h
  exact beq_iff_eq.mpr h

/-- Format `XYs`: the family and the low nibble are fixed. -/
theorem encodeXYs_selects {f sub : BitVec 4} {p : Opcode} (hp : f ++ (0#4 ++ (0#4 ++ sub)) = p) (x y : Reg) :
    (OpcodeRow.mk p 0xF00F).selects (encodeXYN f x y sub) = true := by
  have h : (f ++ (regField x ++ (regField y ++ sub))) &&& (0xF#4 ++ (0#4 ++ (0#4 ++ 0xF#4))) =
      (f &&& 0xF#4) ++ ((regField x &&& 0#4) ++ ((regField y &&& 0#4) ++ (sub &&& 0xF#4))) := by
    rw [BitVec.and_append, BitVec.and_append, BitVec.and_append]
  have hf : f &&& 0xF#4 = f := BitVec.and_allOnes
  have hs : sub &&& 0xF#4 = sub := BitVec.and_allOnes
  rw [hf, hs, BitVec.and_zero, BitVec.and_zero, hp] at h
  exact beq_iff_eq.mpr h

end Sys2Proof
end

