-- ==== Sys2Proof/Laws/State.lean ====
section
/-! SUPPORT. What each update of the state leaves in each field: one lemma per field per update, true by definition, so that no
later proof unfolds a record update; and the registers read back after each update. -/

namespace Sys2Proof.Machine

variable (s : State)

/-! `setReg` -/

@[simp] theorem State.setReg_mem (x : Reg) (v : Byte) : (s.setReg x v).mem = s.mem := rfl
@[simp] theorem State.setReg_V (x : Reg) (v : Byte) : (s.setReg x v).V = s.V.set x.val v x.isLt := rfl
@[simp] theorem State.setReg_I (x : Reg) (v : Byte) : (s.setReg x v).I = s.I := rfl
@[simp] theorem State.setReg_pc (x : Reg) (v : Byte) : (s.setReg x v).pc = s.pc := rfl
@[simp] theorem State.setReg_stack (x : Reg) (v : Byte) : (s.setReg x v).stack = s.stack := rfl
@[simp] theorem State.setReg_depth (x : Reg) (v : Byte) : (s.setReg x v).depth = s.depth := rfl
@[simp] theorem State.setReg_delay (x : Reg) (v : Byte) : (s.setReg x v).delay = s.delay := rfl
@[simp] theorem State.setReg_sound (x : Reg) (v : Byte) : (s.setReg x v).sound = s.sound := rfl
@[simp] theorem State.setReg_paused (x : Reg) (v : Byte) : (s.setReg x v).paused = s.paused := rfl
@[simp] theorem State.setReg_fatal (x : Reg) (v : Byte) : (s.setReg x v).fatal = s.fatal := rfl
@[simp] theorem State.setReg_wait (x : Reg) (v : Byte) : (s.setReg x v).wait = s.wait := rfl
@[simp] theorem State.setReg_cycle (x : Reg) (v : Byte) : (s.setReg x v).cycle = s.cycle := rfl
@[simp] theorem State.setReg_env (x : Reg) (v : Byte) : (s.setReg x v).env = s.env := rfl

/-! `setI` -/

@[simp] theorem State.setI_mem (v : Addr) : (s.setI v).mem = s.mem := rfl
@[simp] theorem State.setI_V (v : Addr) : (s.setI v).V = s.V := rfl
@[simp] theorem State.setI_I (v : Addr) : (s.setI v).I = v := rfl
@[simp] theorem State.setI_pc (v : Addr) : (s.setI v).pc = s.pc := rfl
@[simp] theorem State.setI_stack (v : Addr) : (s.setI v).stack = s.stack := rfl
@[simp] theorem State.setI_depth (v : Addr) : (s.setI v).depth = s.depth := rfl
@[simp] theorem State.setI_delay (v : Addr) : (s.setI v).delay = s.delay := rfl
@[simp] theorem State.setI_sound (v : Addr) : (s.setI v).sound = s.sound := rfl
@[simp] theorem State.setI_paused (v : Addr) : (s.setI v).paused = s.paused := rfl
@[simp] theorem State.setI_fatal (v : Addr) : (s.setI v).fatal = s.fatal := rfl
@[simp] theorem State.setI_wait (v : Addr) : (s.setI v).wait = s.wait := rfl
@[simp] theorem State.setI_cycle (v : Addr) : (s.setI v).cycle = s.cycle := rfl
@[simp] theorem State.setI_env (v : Addr) : (s.setI v).env = s.env := rfl

/-! `setPc` -/

@[simp] theorem State.setPc_mem (a : Addr) : (s.setPc a).mem = s.mem := rfl
@[simp] theorem State.setPc_V (a : Addr) : (s.setPc a).V = s.V := rfl
@[simp] theorem State.setPc_I (a : Addr) : (s.setPc a).I = s.I := rfl
@[simp] theorem State.setPc_pc (a : Addr) : (s.setPc a).pc = a := rfl
@[simp] theorem State.setPc_stack (a : Addr) : (s.setPc a).stack = s.stack := rfl
@[simp] theorem State.setPc_depth (a : Addr) : (s.setPc a).depth = s.depth := rfl
@[simp] theorem State.setPc_delay (a : Addr) : (s.setPc a).delay = s.delay := rfl
@[simp] theorem State.setPc_sound (a : Addr) : (s.setPc a).sound = s.sound := rfl
@[simp] theorem State.setPc_paused (a : Addr) : (s.setPc a).paused = s.paused := rfl
@[simp] theorem State.setPc_fatal (a : Addr) : (s.setPc a).fatal = s.fatal := rfl
@[simp] theorem State.setPc_wait (a : Addr) : (s.setPc a).wait = s.wait := rfl
@[simp] theorem State.setPc_cycle (a : Addr) : (s.setPc a).cycle = s.cycle := rfl
@[simp] theorem State.setPc_env (a : Addr) : (s.setPc a).env = s.env := rfl

/-! `advancePc` -/

@[simp] theorem State.advancePc_mem : (s.advancePc).mem = s.mem := rfl
@[simp] theorem State.advancePc_V : (s.advancePc).V = s.V := rfl
@[simp] theorem State.advancePc_I : (s.advancePc).I = s.I := rfl
@[simp] theorem State.advancePc_pc : (s.advancePc).pc = s.pc + 2 := rfl
@[simp] theorem State.advancePc_stack : (s.advancePc).stack = s.stack := rfl
@[simp] theorem State.advancePc_depth : (s.advancePc).depth = s.depth := rfl
@[simp] theorem State.advancePc_delay : (s.advancePc).delay = s.delay := rfl
@[simp] theorem State.advancePc_sound : (s.advancePc).sound = s.sound := rfl
@[simp] theorem State.advancePc_paused : (s.advancePc).paused = s.paused := rfl
@[simp] theorem State.advancePc_fatal : (s.advancePc).fatal = s.fatal := rfl
@[simp] theorem State.advancePc_wait : (s.advancePc).wait = s.wait := rfl
@[simp] theorem State.advancePc_cycle : (s.advancePc).cycle = s.cycle := rfl
@[simp] theorem State.advancePc_env : (s.advancePc).env = s.env := rfl

/-! `setDelay` -/

@[simp] theorem State.setDelay_mem (v : Byte) : (s.setDelay v).mem = s.mem := rfl
@[simp] theorem State.setDelay_V (v : Byte) : (s.setDelay v).V = s.V := rfl
@[simp] theorem State.setDelay_I (v : Byte) : (s.setDelay v).I = s.I := rfl
@[simp] theorem State.setDelay_pc (v : Byte) : (s.setDelay v).pc = s.pc := rfl
@[simp] theorem State.setDelay_stack (v : Byte) : (s.setDelay v).stack = s.stack := rfl
@[simp] theorem State.setDelay_depth (v : Byte) : (s.setDelay v).depth = s.depth := rfl
@[simp] theorem State.setDelay_delay (v : Byte) : (s.setDelay v).delay = v := rfl
@[simp] theorem State.setDelay_sound (v : Byte) : (s.setDelay v).sound = s.sound := rfl
@[simp] theorem State.setDelay_paused (v : Byte) : (s.setDelay v).paused = s.paused := rfl
@[simp] theorem State.setDelay_fatal (v : Byte) : (s.setDelay v).fatal = s.fatal := rfl
@[simp] theorem State.setDelay_wait (v : Byte) : (s.setDelay v).wait = s.wait := rfl
@[simp] theorem State.setDelay_cycle (v : Byte) : (s.setDelay v).cycle = s.cycle := rfl
@[simp] theorem State.setDelay_env (v : Byte) : (s.setDelay v).env = s.env := rfl

/-! `setSound` -/

@[simp] theorem State.setSound_mem (v : Byte) : (s.setSound v).mem = s.mem := rfl
@[simp] theorem State.setSound_V (v : Byte) : (s.setSound v).V = s.V := rfl
@[simp] theorem State.setSound_I (v : Byte) : (s.setSound v).I = s.I := rfl
@[simp] theorem State.setSound_pc (v : Byte) : (s.setSound v).pc = s.pc := rfl
@[simp] theorem State.setSound_stack (v : Byte) : (s.setSound v).stack = s.stack := rfl
@[simp] theorem State.setSound_depth (v : Byte) : (s.setSound v).depth = s.depth := rfl
@[simp] theorem State.setSound_delay (v : Byte) : (s.setSound v).delay = s.delay := rfl
@[simp] theorem State.setSound_sound (v : Byte) : (s.setSound v).sound = v := rfl
@[simp] theorem State.setSound_paused (v : Byte) : (s.setSound v).paused = s.paused := rfl
@[simp] theorem State.setSound_fatal (v : Byte) : (s.setSound v).fatal = s.fatal := rfl
@[simp] theorem State.setSound_wait (v : Byte) : (s.setSound v).wait = s.wait := rfl
@[simp] theorem State.setSound_cycle (v : Byte) : (s.setSound v).cycle = s.cycle := rfl
@[simp] theorem State.setSound_env (v : Byte) : (s.setSound v).env = s.env := rfl

/-! `setMem` -/

@[simp] theorem State.setMem_mem (m : Memory) : (s.setMem m).mem = m := rfl
@[simp] theorem State.setMem_V (m : Memory) : (s.setMem m).V = s.V := rfl
@[simp] theorem State.setMem_I (m : Memory) : (s.setMem m).I = s.I := rfl
@[simp] theorem State.setMem_pc (m : Memory) : (s.setMem m).pc = s.pc := rfl
@[simp] theorem State.setMem_stack (m : Memory) : (s.setMem m).stack = s.stack := rfl
@[simp] theorem State.setMem_depth (m : Memory) : (s.setMem m).depth = s.depth := rfl
@[simp] theorem State.setMem_delay (m : Memory) : (s.setMem m).delay = s.delay := rfl
@[simp] theorem State.setMem_sound (m : Memory) : (s.setMem m).sound = s.sound := rfl
@[simp] theorem State.setMem_paused (m : Memory) : (s.setMem m).paused = s.paused := rfl
@[simp] theorem State.setMem_fatal (m : Memory) : (s.setMem m).fatal = s.fatal := rfl
@[simp] theorem State.setMem_wait (m : Memory) : (s.setMem m).wait = s.wait := rfl
@[simp] theorem State.setMem_cycle (m : Memory) : (s.setMem m).cycle = s.cycle := rfl
@[simp] theorem State.setMem_env (m : Memory) : (s.setMem m).env = s.env := rfl

/-! `setEnv` -/

@[simp] theorem State.setEnv_mem (e : Env) : (s.setEnv e).mem = s.mem := rfl
@[simp] theorem State.setEnv_V (e : Env) : (s.setEnv e).V = s.V := rfl
@[simp] theorem State.setEnv_I (e : Env) : (s.setEnv e).I = s.I := rfl
@[simp] theorem State.setEnv_pc (e : Env) : (s.setEnv e).pc = s.pc := rfl
@[simp] theorem State.setEnv_stack (e : Env) : (s.setEnv e).stack = s.stack := rfl
@[simp] theorem State.setEnv_depth (e : Env) : (s.setEnv e).depth = s.depth := rfl
@[simp] theorem State.setEnv_delay (e : Env) : (s.setEnv e).delay = s.delay := rfl
@[simp] theorem State.setEnv_sound (e : Env) : (s.setEnv e).sound = s.sound := rfl
@[simp] theorem State.setEnv_paused (e : Env) : (s.setEnv e).paused = s.paused := rfl
@[simp] theorem State.setEnv_fatal (e : Env) : (s.setEnv e).fatal = s.fatal := rfl
@[simp] theorem State.setEnv_wait (e : Env) : (s.setEnv e).wait = s.wait := rfl
@[simp] theorem State.setEnv_cycle (e : Env) : (s.setEnv e).cycle = s.cycle := rfl
@[simp] theorem State.setEnv_env (e : Env) : (s.setEnv e).env = e := rfl

/-! `setCycle` -/

@[simp] theorem State.setCycle_mem (c : Option Nat) : (s.setCycle c).mem = s.mem := rfl
@[simp] theorem State.setCycle_V (c : Option Nat) : (s.setCycle c).V = s.V := rfl
@[simp] theorem State.setCycle_I (c : Option Nat) : (s.setCycle c).I = s.I := rfl
@[simp] theorem State.setCycle_pc (c : Option Nat) : (s.setCycle c).pc = s.pc := rfl
@[simp] theorem State.setCycle_stack (c : Option Nat) : (s.setCycle c).stack = s.stack := rfl
@[simp] theorem State.setCycle_depth (c : Option Nat) : (s.setCycle c).depth = s.depth := rfl
@[simp] theorem State.setCycle_delay (c : Option Nat) : (s.setCycle c).delay = s.delay := rfl
@[simp] theorem State.setCycle_sound (c : Option Nat) : (s.setCycle c).sound = s.sound := rfl
@[simp] theorem State.setCycle_paused (c : Option Nat) : (s.setCycle c).paused = s.paused := rfl
@[simp] theorem State.setCycle_fatal (c : Option Nat) : (s.setCycle c).fatal = s.fatal := rfl
@[simp] theorem State.setCycle_wait (c : Option Nat) : (s.setCycle c).wait = s.wait := rfl
@[simp] theorem State.setCycle_cycle (c : Option Nat) : (s.setCycle c).cycle = c := rfl
@[simp] theorem State.setCycle_env (c : Option Nat) : (s.setCycle c).env = s.env := rfl

/-! `beginWait` -/

@[simp] theorem State.beginWait_mem (x : Reg) : (s.beginWait x).mem = s.mem := rfl
@[simp] theorem State.beginWait_V (x : Reg) : (s.beginWait x).V = s.V := rfl
@[simp] theorem State.beginWait_I (x : Reg) : (s.beginWait x).I = s.I := rfl
@[simp] theorem State.beginWait_pc (x : Reg) : (s.beginWait x).pc = s.pc := rfl
@[simp] theorem State.beginWait_stack (x : Reg) : (s.beginWait x).stack = s.stack := rfl
@[simp] theorem State.beginWait_depth (x : Reg) : (s.beginWait x).depth = s.depth := rfl
@[simp] theorem State.beginWait_delay (x : Reg) : (s.beginWait x).delay = s.delay := rfl
@[simp] theorem State.beginWait_sound (x : Reg) : (s.beginWait x).sound = s.sound := rfl
@[simp] theorem State.beginWait_paused (x : Reg) : (s.beginWait x).paused = true := rfl
@[simp] theorem State.beginWait_fatal (x : Reg) : (s.beginWait x).fatal = s.fatal := rfl
@[simp] theorem State.beginWait_wait (x : Reg) : (s.beginWait x).wait = some x := rfl
@[simp] theorem State.beginWait_cycle (x : Reg) : (s.beginWait x).cycle = s.cycle := rfl
@[simp] theorem State.beginWait_env (x : Reg) : (s.beginWait x).env = s.env := rfl

/-! `raiseFatal` -/

@[simp] theorem raiseFatal_mem (k : FatalKind) : (raiseFatal k s).mem = s.mem := rfl
@[simp] theorem raiseFatal_V (k : FatalKind) : (raiseFatal k s).V = s.V := rfl
@[simp] theorem raiseFatal_I (k : FatalKind) : (raiseFatal k s).I = s.I := rfl
@[simp] theorem raiseFatal_pc (k : FatalKind) : (raiseFatal k s).pc = s.pc := rfl
@[simp] theorem raiseFatal_stack (k : FatalKind) : (raiseFatal k s).stack = s.stack := rfl
@[simp] theorem raiseFatal_depth (k : FatalKind) : (raiseFatal k s).depth = s.depth := rfl
@[simp] theorem raiseFatal_delay (k : FatalKind) : (raiseFatal k s).delay = s.delay := rfl
@[simp] theorem raiseFatal_sound (k : FatalKind) : (raiseFatal k s).sound = s.sound := rfl
@[simp] theorem raiseFatal_paused (k : FatalKind) : (raiseFatal k s).paused = true := rfl
@[simp] theorem raiseFatal_fatal (k : FatalKind) : (raiseFatal k s).fatal = some k := rfl
@[simp] theorem raiseFatal_wait (k : FatalKind) : (raiseFatal k s).wait = s.wait := rfl
@[simp] theorem raiseFatal_cycle (k : FatalKind) : (raiseFatal k s).cycle = s.cycle := rfl
@[simp] theorem raiseFatal_env (k : FatalKind) : (raiseFatal k s).env = s.env := rfl

/-! `resetCore` -/

@[simp] theorem resetCore_mem : (resetCore s).mem = State.reset.mem := rfl
@[simp] theorem resetCore_V : (resetCore s).V = State.reset.V := rfl
@[simp] theorem resetCore_I : (resetCore s).I = State.reset.I := rfl
@[simp] theorem resetCore_pc : (resetCore s).pc = State.reset.pc := rfl
@[simp] theorem resetCore_stack : (resetCore s).stack = State.reset.stack := rfl
@[simp] theorem resetCore_depth : (resetCore s).depth = State.reset.depth := rfl
@[simp] theorem resetCore_delay : (resetCore s).delay = State.reset.delay := rfl
@[simp] theorem resetCore_sound : (resetCore s).sound = State.reset.sound := rfl
@[simp] theorem resetCore_paused : (resetCore s).paused = State.reset.paused := rfl
@[simp] theorem resetCore_fatal : (resetCore s).fatal = State.reset.fatal := rfl
@[simp] theorem resetCore_wait : (resetCore s).wait = State.reset.wait := rfl
@[simp] theorem resetCore_cycle : (resetCore s).cycle = State.reset.cycle := rfl
@[simp] theorem resetCore_env : (resetCore s).env = s.env := rfl

/-! Registers read after an update. -/

@[simp] theorem State.reg_setReg_same (x : Reg) (v : Byte) : (s.setReg x v).reg x = v := by
  simp [State.reg]

theorem State.reg_setReg_other {x r : Reg} (h : r ≠ x) (v : Byte) : (s.setReg x v).reg r = s.reg r := by
  have hv : x.val ≠ r.val := fun e => h (Fin.ext e.symm)
  simp [State.reg, hv]

theorem State.reg_setReg (x r : Reg) (v : Byte) : (s.setReg x v).reg r = if r = x then v else s.reg r := by
  by_cases h : r = x
  · subst h; simp
  · simp [State.reg_setReg_other s h, h]

@[simp] theorem State.setI_reg (v : Addr) (r : Reg) : (s.setI v).reg r = s.reg r := rfl
@[simp] theorem State.setPc_reg (a : Addr) (r : Reg) : (s.setPc a).reg r = s.reg r := rfl
@[simp] theorem State.advancePc_reg (r : Reg) : (s.advancePc).reg r = s.reg r := rfl
@[simp] theorem State.setDelay_reg (v : Byte) (r : Reg) : (s.setDelay v).reg r = s.reg r := rfl
@[simp] theorem State.setSound_reg (v : Byte) (r : Reg) : (s.setSound v).reg r = s.reg r := rfl
@[simp] theorem State.setMem_reg (m : Memory) (r : Reg) : (s.setMem m).reg r = s.reg r := rfl
@[simp] theorem State.setEnv_reg (e : Env) (r : Reg) : (s.setEnv e).reg r = s.reg r := rfl
@[simp] theorem State.setCycle_reg (c : Option Nat) (r : Reg) : (s.setCycle c).reg r = s.reg r := rfl
@[simp] theorem State.beginWait_reg (x : Reg) (r : Reg) : (s.beginWait x).reg r = s.reg r := rfl
@[simp] theorem raiseFatal_reg (k : FatalKind) (r : Reg) : (raiseFatal k s).reg r = s.reg r := rfl

@[simp] theorem resetCore_reg (r : Reg) : (resetCore s).reg r = 0 :=
  (by decide : ∀ r : Reg, State.reset.reg r = 0) r

@[simp] theorem State.setPc_setCycle (a : Addr) (c : Option Nat) : (s.setCycle c).setPc a = (s.setPc a).setCycle c := rfl

/-! `skipIf` changes the program counter at most. -/

@[simp] theorem State.skipIf_pc (b : Bool) : (s.skipIf b).pc = if b then s.pc + 2 else s.pc := by cases b <;> rfl
@[simp] theorem State.skipIf_mem (b : Bool) : (s.skipIf b).mem = s.mem := by cases b <;> rfl
@[simp] theorem State.skipIf_V (b : Bool) : (s.skipIf b).V = s.V := by cases b <;> rfl
@[simp] theorem State.skipIf_I (b : Bool) : (s.skipIf b).I = s.I := by cases b <;> rfl
@[simp] theorem State.skipIf_stack (b : Bool) : (s.skipIf b).stack = s.stack := by cases b <;> rfl
@[simp] theorem State.skipIf_depth (b : Bool) : (s.skipIf b).depth = s.depth := by cases b <;> rfl
@[simp] theorem State.skipIf_delay (b : Bool) : (s.skipIf b).delay = s.delay := by cases b <;> rfl
@[simp] theorem State.skipIf_sound (b : Bool) : (s.skipIf b).sound = s.sound := by cases b <;> rfl
@[simp] theorem State.skipIf_paused (b : Bool) : (s.skipIf b).paused = s.paused := by cases b <;> rfl
@[simp] theorem State.skipIf_fatal (b : Bool) : (s.skipIf b).fatal = s.fatal := by cases b <;> rfl
@[simp] theorem State.skipIf_wait (b : Bool) : (s.skipIf b).wait = s.wait := by cases b <;> rfl
@[simp] theorem State.skipIf_cycle (b : Bool) : (s.skipIf b).cycle = s.cycle := by cases b <;> rfl
@[simp] theorem State.skipIf_env (b : Bool) : (s.skipIf b).env = s.env := by cases b <;> rfl
@[simp] theorem State.skipIf_reg (b : Bool) (r : Reg) : (s.skipIf b).reg r = s.reg r := by cases b <;> rfl

/-! `setRegThenFlag` writes the flag last (spec R130). -/

@[simp] theorem State.reg_setRegThenFlag_flag (x : Reg) (v : Byte) (f : Bool) :
    (s.setRegThenFlag x v f).reg VF = flagByte f := by
  simp [State.setRegThenFlag]

theorem State.reg_setRegThenFlag_dest {x : Reg} (h : x ≠ VF) (v : Byte) (f : Bool) :
    (s.setRegThenFlag x v f).reg x = v := by
  simp [State.setRegThenFlag, State.reg_setReg_other _ h]

theorem State.reg_setRegThenFlag_other {x r : Reg} (hx : r ≠ x) (hf : r ≠ VF) (v : Byte) (f : Bool) :
    (s.setRegThenFlag x v f).reg r = s.reg r := by
  simp [State.setRegThenFlag, State.reg_setReg_other _ hf, State.reg_setReg_other _ hx]

@[simp] theorem State.setRegThenFlag_mem (x : Reg) (v : Byte) (b : Bool) : (s.setRegThenFlag x v b).mem = s.mem := rfl
@[simp] theorem State.setRegThenFlag_I (x : Reg) (v : Byte) (b : Bool) : (s.setRegThenFlag x v b).I = s.I := rfl
@[simp] theorem State.setRegThenFlag_pc (x : Reg) (v : Byte) (b : Bool) : (s.setRegThenFlag x v b).pc = s.pc := rfl
@[simp] theorem State.setRegThenFlag_stack (x : Reg) (v : Byte) (b : Bool) : (s.setRegThenFlag x v b).stack = s.stack := rfl
@[simp] theorem State.setRegThenFlag_depth (x : Reg) (v : Byte) (b : Bool) : (s.setRegThenFlag x v b).depth = s.depth := rfl
@[simp] theorem State.setRegThenFlag_delay (x : Reg) (v : Byte) (b : Bool) : (s.setRegThenFlag x v b).delay = s.delay := rfl
@[simp] theorem State.setRegThenFlag_sound (x : Reg) (v : Byte) (b : Bool) : (s.setRegThenFlag x v b).sound = s.sound := rfl
@[simp] theorem State.setRegThenFlag_paused (x : Reg) (v : Byte) (b : Bool) : (s.setRegThenFlag x v b).paused = s.paused := rfl
@[simp] theorem State.setRegThenFlag_fatal (x : Reg) (v : Byte) (b : Bool) : (s.setRegThenFlag x v b).fatal = s.fatal := rfl
@[simp] theorem State.setRegThenFlag_wait (x : Reg) (v : Byte) (b : Bool) : (s.setRegThenFlag x v b).wait = s.wait := rfl
@[simp] theorem State.setRegThenFlag_cycle (x : Reg) (v : Byte) (b : Bool) : (s.setRegThenFlag x v b).cycle = s.cycle := rfl
@[simp] theorem State.setRegThenFlag_env (x : Reg) (v : Byte) (b : Bool) : (s.setRegThenFlag x v b).env = s.env := rfl

end Sys2Proof.Machine
end

