-- ==== Sys2Proof/Laws/Environment.lean ====
section
/-! SUPPORT. What a request to a collaborator leaves: the record of what was asked, and which reply was taken. -/

namespace Sys2Proof.Machine

variable (e : Env)

@[simp] theorem Env.request_trace (r : Request) : (e.request r).trace = e.trace ++ [.request r] := rfl
@[simp] theorem Env.request_hostOps (r : Request) : (e.request r).hostOps = e.hostOps := rfl
@[simp] theorem Env.request_randomBytes (r : Request) : (e.request r).randomBytes = e.randomBytes := rfl
@[simp] theorem Env.request_keyReplies (r : Request) : (e.request r).keyReplies = e.keyReplies := rfl
@[simp] theorem Env.request_toggleReplies (r : Request) : (e.request r).toggleReplies = e.toggleReplies := rfl
@[simp] theorem Env.request_freeCount (r : Request) : (e.request r).freeCount = e.freeCount := rfl
@[simp] theorem Env.answer_trace (r : HostReply) : (e.answer r).trace = e.trace ++ [.reply r] := rfl
@[simp] theorem Env.answer_hostOps (r : HostReply) : (e.answer r).hostOps = e.hostOps := rfl

@[simp] theorem Env.askRandom_trace : e.askRandom.2.trace = e.trace ++ [.request .randNext] := by
  unfold Env.askRandom Env.takeRandom; split <;> rfl

@[simp] theorem Env.askRandom_hostOps : e.askRandom.2.hostOps = e.hostOps := by
  unfold Env.askRandom Env.takeRandom; split <;> rfl

/-- A settled random byte is the reply. -/
theorem Env.askRandom_settled {b : Byte} {bs : List Byte} (h : e.randomBytes = b :: bs) :
    e.askRandom.1 = b ∧ e.askRandom.2.randomBytes = bs := by
  unfold Env.askRandom Env.takeRandom; simp [h]

@[simp] theorem Env.askKey_trace (k : Key) : (e.askKey k).2.trace = e.trace ++ [.request (.keyIsPressed k)] := by
  unfold Env.askKey Env.takeKeyReply; split <;> rfl

@[simp] theorem Env.askKey_hostOps (k : Key) : (e.askKey k).2.hostOps = e.hostOps := by
  unfold Env.askKey Env.takeKeyReply; split <;> rfl

/-- A settled key reply is the reply. -/
theorem Env.askKey_settled {b : Bool} {bs : List Bool} (h : e.keyReplies = b :: bs) (k : Key) :
    (e.askKey k).1 = b ∧ (e.askKey k).2.keyReplies = bs := by
  unfold Env.askKey Env.takeKeyReply; simp [h]

@[simp] theorem Env.askToggle_trace (p : Pixel) : (e.askToggle p).2.trace = e.trace ++ [.request (.frameToggle p)] := by
  unfold Env.askToggle Env.takeToggleReply; split <;> rfl

@[simp] theorem Env.askToggle_hostOps (p : Pixel) : (e.askToggle p).2.hostOps = e.hostOps := by
  unfold Env.askToggle Env.takeToggleReply; split <;> rfl

/-- One `toggle` for each pixel, in order (spec R192). -/
@[simp] theorem Env.askToggles_trace (ps : List Pixel) :
    (e.askToggles ps).2.trace = e.trace ++ ps.map fun p => .request (.frameToggle p) := by
  induction ps generalizing e with
  | nil => simp [Env.askToggles]
  | cons p ps ih => simp [Env.askToggles, ih]

@[simp] theorem Env.askToggles_hostOps (ps : List Pixel) : (e.askToggles ps).2.hostOps = e.hostOps := by
  induction ps generalizing e with
  | nil => rfl
  | cons p ps ih => simp [Env.askToggles, ih]

/-- Settled replies are taken in order, and the collision flag is whether one of them was true. -/
theorem Env.askToggles_settled (ps : List Pixel) {bs rest : List Bool} (hl : bs.length = ps.length)
    (h : e.toggleReplies = bs ++ rest) :
    (e.askToggles ps).1 = bs.any id ∧ (e.askToggles ps).2.toggleReplies = rest := by
  induction ps generalizing e bs with
  | nil =>
    obtain rfl : bs = [] := List.length_eq_zero_iff.mp hl
    simpa [Env.askToggles] using h
  | cons p ps ih =>
    cases bs with
    | nil => cases hl
    | cons b bs =>
      have h1 : (e.askToggle p).1 = b ∧ (e.askToggle p).2.toggleReplies = bs ++ rest := by
        unfold Env.askToggle Env.takeToggleReply; simp [h]
      obtain ⟨h2, h3⟩ := ih (e.askToggle p).2 (Nat.succ.inj hl) h1.2
      simp [Env.askToggles, h1.1, h2, h3]

end Sys2Proof.Machine
end

