-- ==== Sys2Proof/Laws/Memory.lean ====
section
/-! SUPPORT. The laws of memory: a read after a write gives the value written, a write leaves every other address alone, and
every operation keeps the canonical form. -/

namespace Sys2Proof.Machine

theorem Memory.read_cons (c : Host.Cell) (m : Memory) (a : Nat) :
    Memory.read (c :: m) a = if c.1 = a then c.2 else Memory.read m a := rfl

theorem Memory.erase_cons (c : Host.Cell) (m : Memory) (a : Nat) :
    Memory.erase (c :: m) a = if c.1 = a then Memory.erase m a else c :: Memory.erase m a := by
  by_cases h : c.1 = a <;> simp [Memory.erase, h]

theorem Memory.read_erase (m : Memory) (a b : Nat) :
    (m.erase a).read b = if b = a then resetByte a else m.read b := by
  induction m with
  | nil => by_cases h : b = a <;> simp [Memory.erase, Memory.read, h]
  | cons c m ih =>
    rw [Memory.erase_cons, Memory.read_cons]
    by_cases hb : b = a
    · subst hb
      by_cases hc : c.1 = b <;> simpa [hc, Memory.read_cons] using ih
    · by_cases hc : c.1 = a
      · simp [hc, ih, hb, Ne.symm hb]
      · simp [hc, ih, hb, Memory.read_cons]

theorem Memory.read_insert_other (m : Memory) {a b : Nat} (h : b ≠ a) (v : Byte) :
    (m.insert a v).read b = m.read b := by
  induction m with
  | nil => simp [Memory.insert, Memory.read, h.symm]
  | cons c m ih =>
    simp only [Memory.insert]
    split
    · simp [Memory.read, h.symm]
    · simp [Memory.read, ih]

theorem Memory.read_insert_same (m : Memory) (a : Nat) (v : Byte) (h : ∀ c ∈ m, c.1 ≠ a) :
    (m.insert a v).read a = v := by
  induction m with
  | nil => simp [Memory.insert, Memory.read]
  | cons c m ih =>
    simp only [Memory.insert]
    split
    · simp [Memory.read]
    · have hc := h c (by simp)
      simp [Memory.read, hc, ih fun d hd => h d (by simp [hd])]

theorem Memory.ne_of_mem_erase (m : Memory) (a : Nat) : ∀ c ∈ m.erase a, c.1 ≠ a := by
  intro c hc
  simpa [Memory.erase] using (List.mem_filter.mp hc).2

@[simp] theorem Memory.read_write_same (m : Memory) (a : Nat) (v : Byte) : (m.write a v).read a = v := by
  unfold Memory.write
  split
  · next h => simp [Memory.read_erase, h]
  · exact Memory.read_insert_same _ _ _ (Memory.ne_of_mem_erase m a)

theorem Memory.read_write_other (m : Memory) {a b : Nat} (h : b ≠ a) (v : Byte) :
    (m.write a v).read b = m.read b := by
  unfold Memory.write
  split
  · simp [Memory.read_erase, h]
  · simp [Memory.read_insert_other _ h, Memory.read_erase, h]

theorem Memory.read_write (m : Memory) (a b : Nat) (v : Byte) :
    (m.write a v).read b = if b = a then v else m.read b := by
  by_cases h : b = a
  · subst h; simp
  · simp [Memory.read_write_other m h, h]

theorem Memory.erase_wf {m : Memory} (h : m.wf) (a : Nat) : (m.erase a).wf :=
  ⟨h.1.sublist List.filter_sublist, fun c hc => h.2 c (List.mem_of_mem_filter hc)⟩

theorem Memory.mem_insert {m : Memory} {a : Nat} {v : Byte} {c : Host.Cell} (h : c ∈ m.insert a v) :
    c = (a, v) ∨ c ∈ m := by
  induction m with
  | nil => simpa [Memory.insert] using h
  | cons d m ih =>
    simp only [Memory.insert] at h
    split at h
    · simpa using h
    · rcases List.mem_cons.mp h with h | h
      · exact .inr (by simp [h])
      · exact (ih h).imp id fun h => by simp [h]

theorem Memory.insert_pairwise {m : Memory} {a : Nat} {v : Byte} (h : m.Pairwise fun c d => c.1 < d.1)
    (ha : ∀ c ∈ m, c.1 ≠ a) : (m.insert a v).Pairwise fun c d => c.1 < d.1 := by
  induction m with
  | nil => simp [Memory.insert]
  | cons c m ih =>
    have hc := ha c (by simp)
    obtain ⟨hlt, hm⟩ := List.pairwise_cons.mp h
    simp only [Memory.insert]
    split
    · next hac =>
      refine List.pairwise_cons.mpr ⟨fun d hd => ?_, h⟩
      rcases List.mem_cons.mp hd with rfl | hd
      · exact hac
      · exact hac.trans (hlt d hd)
    · next hac =>
      refine List.pairwise_cons.mpr ⟨fun d hd => ?_, ih hm fun d hd => ha d (by simp [hd])⟩
      rcases Memory.mem_insert hd with rfl | hd
      · show c.1 < a
        simp only [Nat.not_lt] at hac
        omega
      · exact hlt d hd

/-- Every write keeps the canonical form. -/
theorem Memory.write_wf {m : Memory} (h : m.wf) {a : Nat} (ha : a < Config.memSize) (v : Byte) :
    (m.write a v).wf := by
  unfold Memory.write
  split
  · exact Memory.erase_wf h a
  · next hv =>
    have he := Memory.erase_wf h a
    refine ⟨Memory.insert_pairwise he.1 (Memory.ne_of_mem_erase m a), fun c hc => ?_⟩
    rcases Memory.mem_insert hc with rfl | hc
    · exact ⟨ha, hv⟩
    · exact he.2 c hc

theorem reset_mem_wf : State.reset.mem.wf := ⟨List.Pairwise.nil, fun _ h => by cases h⟩

/-- An image's byte `k` stands at `base + k`, and every other address is as before. -/
theorem read_writeImage (m : Memory) (base : Nat) (bs : List Byte) (a : Nat) :
    (writeImage m base bs).read a =
      if h : base ≤ a ∧ a < base + bs.length then bs[a - base]'(by omega) else m.read a := by
  induction bs generalizing m base with
  | nil => simp [writeImage, show ¬(base ≤ a ∧ a < base) by omega]
  | cons b bs ih =>
    rw [writeImage, ih, Memory.read_write]
    by_cases h0 : a = base
    · subst h0
      simp
    · by_cases h : base + 1 ≤ a ∧ a < base + 1 + bs.length
      · have h' : base ≤ a ∧ a < base + (b :: bs).length := by simp only [List.length_cons]; omega
        have e : a - base = (a - (base + 1)) + 1 := by omega
        simp only [h, h', dif_pos, and_self, e, List.getElem_cons_succ]
      · have h' : ¬(base ≤ a ∧ a < base + (b :: bs).length) := by simp only [List.length_cons]; omega
        simp only [h, h', dif_neg, not_false_eq_true, h0, if_false]

theorem writeImage_wf {m : Memory} (h : m.wf) {base : Nat} {bs : List Byte}
    (hb : base + bs.length ≤ Config.memSize) : (writeImage m base bs).wf := by
  induction bs generalizing m base with
  | nil => exact h
  | cons b bs ih =>
    simp only [List.length_cons] at hb
    exact ih (Memory.write_wf h (by omega) b) (by omega)

end Sys2Proof.Machine
end

