-- ==== Sys2Proof/Laws/Ops.lean ====
section
/-! SUPPORT. What the shared operations can do: sequencing, the range check, memory blocks, register blocks, the call
stack. -/

namespace Sys2Proof.Machine

/-! Sequencing. -/

@[simp] theorem andThen_next {α β : Type} (a : α) (k : α → Res β) : andThen (.next a) k = k a := rfl

theorem andThen_eq_next {α β : Type} {r : Res α} {k : α → Res β} {b : β} (h : andThen r k = .next b) :
    ∃ a, r = .next a ∧ k a = .next b := by
  cases r with
  | next a => exact ⟨a, rfl, h⟩
  | fault f => cases h
  | refused f => cases h

/-! The range check (spec R49). -/

theorem checkRange_out {s : State} {last : Nat} (h : last > 4095) (access : Res State) :
    checkRange s last access = .next (raiseFatal .addressOutOfRange s) := if_pos h

theorem checkRange_in {s : State} {last : Nat} (h : last ≤ 4095) (access : Res State) :
    checkRange s last access = access := if_neg (Nat.not_lt.mpr h)

/-! Accesses. -/

theorem memRead_in {s : State} {a : Nat} (h : a < 4096) : memRead s a = .next (s.mem.read a) := if_pos h

theorem memWrite_in {s : State} {a : Nat} (h : a < 4096) (v : Byte) :
    memWrite s a v = .next (s.setMem (s.mem.write a v)) := if_pos h

/-- A block inside memory is read byte by byte. -/
theorem memReadBlock_in {s : State} {base count : Nat} (h : base + count ≤ 4096) :
    memReadBlock s base count = .next ((List.range count).map fun k => s.mem.read (base + k)) := by
  induction count generalizing base with
  | zero => rfl
  | succ n ih =>
    rw [memReadBlock, memRead_in (by omega), andThen_next, ih (by omega), andThen_next, List.range_succ_eq_map]
    simp [Nat.add_assoc, Nat.add_comm 1, Function.comp_def]

/-- A block inside memory is written whole. -/
theorem memWriteBlock_in {s : State} {base : Nat} {bs : List Byte} (h : base + bs.length ≤ 4096) :
    memWriteBlock s base bs = .next (s.setMem (writeImage s.mem base bs)) := by
  induction bs generalizing s base with
  | nil => rfl
  | cons b bs ih =>
    simp only [List.length_cons] at h
    rw [memWriteBlock, memWrite_in (by omega), andThen_next, ih (by omega)]
    rfl

/-! The register blocks (spec R155, R156). -/

@[simp] theorem mem_regsUpTo {x r : Reg} : r ∈ regsUpTo x ↔ r.val ≤ x.val := by simp [regsUpTo]

theorem regsUpTo_nodup (x : Reg) : (regsUpTo x).Nodup := (List.nodup_finRange 16).filter _

/-- The registers V0 to VX are X + 1 in number. -/
theorem length_regsUpTo (x : Reg) : (regsUpTo x).length = x.val + 1 := by
  revert x; decide

/-- The register at place `k` of the block is V[k]. -/
theorem regsUpTo_getElem (x : Reg) (k : Nat) (h : k < (regsUpTo x).length) : ((regsUpTo x)[k]).val = k := by
  have key : ∀ x : Fin 16, ∀ k : Fin 16, k.val < x.val + 1 → ((regsUpTo x)[k.val]?).map Fin.val = some k.val := by
    decide
  have hk : k < x.val + 1 := by rwa [length_regsUpTo] at h
  have := key x ⟨k, by omega⟩ hk
  simpa [List.getElem?_eq_getElem h] using this

/-- A block load inside memory changes exactly the registers of the list, each to its byte. -/
theorem loadRegList_in {s : State} {base : Nat} {rs : List Reg} (hn : rs.Nodup) (h : ∀ r ∈ rs, base + r.val < 4096) :
    ∃ v, loadRegList base rs s = .next { s with V := v } ∧
      ∀ r : Reg, v[r.val] = if r ∈ rs then s.mem.read (base + r.val) else s.reg r := by
  induction rs generalizing s with
  | nil => exact ⟨s.V, rfl, fun r => rfl⟩
  | cons x rs ih =>
    obtain ⟨hx, hn⟩ := List.nodup_cons.mp hn
    obtain ⟨v, hv, hr⟩ := ih (s := s.setReg x (s.mem.read (base + x.val))) hn fun r hr => h r (by simp [hr])
    refine ⟨v, ?_, fun r => ?_⟩
    · rw [loadRegList, memRead_in (h x (by simp)), andThen_next, hv]; rfl
    · rw [hr r]
      by_cases e : r = x
      · subst e; simp [hx]
      · simp [e, State.reg_setReg_other]

/-! The call stack (spec R20). -/

/-- A push succeeds exactly when the stack holds fewer than 16 entries. -/
theorem push_some {s t : State} {a : Addr} (h : s.push a = some t) :
    ∃ hd : s.depth.val < 16, t = { s with stack := s.stack.set s.depth.val a hd, depth := ⟨s.depth.val + 1, by omega⟩ } := by
  unfold State.push at h
  split at h
  · next hd => exact ⟨hd, (Option.some.inj h).symm⟩
  · cases h

theorem push_none {s : State} {a : Addr} : s.push a = none ↔ s.depth.val = 16 := by
  unfold State.push
  split <;> simp <;> omega

/-- A pop succeeds exactly when the stack is not empty. -/
theorem pop_some {s t : State} {a : Addr} (h : s.pop = some (a, t)) :
    ∃ hd : 0 < s.depth.val, a = s.stack[s.depth.val - 1]'(by omega) ∧ t = { s with depth := ⟨s.depth.val - 1, by omega⟩ } := by
  unfold State.pop at h
  split at h
  · next hd =>
    obtain ⟨h1, h2⟩ := Prod.mk.inj (Option.some.inj h)
    exact ⟨hd, h1.symm, h2.symm⟩
  · cases h

theorem pop_none {s : State} : s.pop = none ↔ s.depth.val = 0 := by
  unfold State.pop
  split <;> simp <;> omega

end Sys2Proof.Machine
end

