-- ==== Sys2Proof/Laws/PerInstr.lean ====
section
/-! SUPPORT. Per instruction: its word selects its own row of the opcode map (spec 30_encoding.md R65, R66), one lemma for each
constructor. -/

namespace Sys2Proof.Laws.TableRow

/-- The word of the instruction selects the instruction's row of the opcode map, and the row is one of the 34. -/
def Statement (i : Instr) : Prop := i.row ∈ opcodeTable ∧ i.row.selects (encode i) = true

theorem clearScreen : Statement (.clearScreen) :=
  ⟨by decide, by decide⟩

theorem ret : Statement (.ret) :=
  ⟨by decide, by decide⟩

theorem jump (nnn : BitVec 12) : Statement (.jump nnn) :=
  ⟨(by decide : OpcodeRow.mk 0x1000 0xF000 ∈ opcodeTable), encodeNNN_selects rfl nnn⟩

theorem call (nnn : BitVec 12) : Statement (.call nnn) :=
  ⟨(by decide : OpcodeRow.mk 0x2000 0xF000 ∈ opcodeTable), encodeNNN_selects rfl nnn⟩

theorem skipEqImm (x : Reg) (nn : Byte) : Statement (.skipEqImm x nn) :=
  ⟨(by decide : OpcodeRow.mk 0x3000 0xF000 ∈ opcodeTable), encodeXNN_selects rfl x nn⟩

theorem skipNeImm (x : Reg) (nn : Byte) : Statement (.skipNeImm x nn) :=
  ⟨(by decide : OpcodeRow.mk 0x4000 0xF000 ∈ opcodeTable), encodeXNN_selects rfl x nn⟩

theorem skipEqReg (x : Reg) (y : Reg) : Statement (.skipEqReg x y) :=
  ⟨(by decide : OpcodeRow.mk 0x5000 0xF00F ∈ opcodeTable), encodeXYs_selects rfl x y⟩

theorem loadImm (x : Reg) (nn : Byte) : Statement (.loadImm x nn) :=
  ⟨(by decide : OpcodeRow.mk 0x6000 0xF000 ∈ opcodeTable), encodeXNN_selects rfl x nn⟩

theorem addImm (x : Reg) (nn : Byte) : Statement (.addImm x nn) :=
  ⟨(by decide : OpcodeRow.mk 0x7000 0xF000 ∈ opcodeTable), encodeXNN_selects rfl x nn⟩

theorem copy (x : Reg) (y : Reg) : Statement (.copy x y) :=
  ⟨(by decide : OpcodeRow.mk 0x8000 0xF00F ∈ opcodeTable), encodeXYs_selects rfl x y⟩

theorem orReg (x : Reg) (y : Reg) : Statement (.orReg x y) :=
  ⟨(by decide : OpcodeRow.mk 0x8001 0xF00F ∈ opcodeTable), encodeXYs_selects rfl x y⟩

theorem andReg (x : Reg) (y : Reg) : Statement (.andReg x y) :=
  ⟨(by decide : OpcodeRow.mk 0x8002 0xF00F ∈ opcodeTable), encodeXYs_selects rfl x y⟩

theorem xorReg (x : Reg) (y : Reg) : Statement (.xorReg x y) :=
  ⟨(by decide : OpcodeRow.mk 0x8003 0xF00F ∈ opcodeTable), encodeXYs_selects rfl x y⟩

theorem addCarry (x : Reg) (y : Reg) : Statement (.addCarry x y) :=
  ⟨(by decide : OpcodeRow.mk 0x8004 0xF00F ∈ opcodeTable), encodeXYs_selects rfl x y⟩

theorem subBorrow (x : Reg) (y : Reg) : Statement (.subBorrow x y) :=
  ⟨(by decide : OpcodeRow.mk 0x8005 0xF00F ∈ opcodeTable), encodeXYs_selects rfl x y⟩

theorem shiftRight (x : Reg) (y : Reg) : Statement (.shiftRight x y) :=
  ⟨(by decide : OpcodeRow.mk 0x8006 0xF00F ∈ opcodeTable), encodeXYs_selects rfl x y⟩

theorem reverseSub (x : Reg) (y : Reg) : Statement (.reverseSub x y) :=
  ⟨(by decide : OpcodeRow.mk 0x8007 0xF00F ∈ opcodeTable), encodeXYs_selects rfl x y⟩

theorem shiftLeft (x : Reg) (y : Reg) : Statement (.shiftLeft x y) :=
  ⟨(by decide : OpcodeRow.mk 0x800E 0xF00F ∈ opcodeTable), encodeXYs_selects rfl x y⟩

theorem skipNeReg (x : Reg) (y : Reg) : Statement (.skipNeReg x y) :=
  ⟨(by decide : OpcodeRow.mk 0x9000 0xF00F ∈ opcodeTable), encodeXYs_selects rfl x y⟩

theorem loadIndex (nnn : BitVec 12) : Statement (.loadIndex nnn) :=
  ⟨(by decide : OpcodeRow.mk 0xA000 0xF000 ∈ opcodeTable), encodeNNN_selects rfl nnn⟩

theorem jumpV0 (nnn : BitVec 12) : Statement (.jumpV0 nnn) :=
  ⟨(by decide : OpcodeRow.mk 0xB000 0xF000 ∈ opcodeTable), encodeNNN_selects rfl nnn⟩

theorem random (x : Reg) (nn : Byte) : Statement (.random x nn) :=
  ⟨(by decide : OpcodeRow.mk 0xC000 0xF000 ∈ opcodeTable), encodeXNN_selects rfl x nn⟩

theorem draw (x : Reg) (y : Reg) (n : BitVec 4) : Statement (.draw x y n) :=
  ⟨(by decide : OpcodeRow.mk 0xD000 0xF000 ∈ opcodeTable), encodeXYN_selects rfl x y n⟩

theorem skipKey (x : Reg) : Statement (.skipKey x) :=
  ⟨(by decide : OpcodeRow.mk 0xE09E 0xF0FF ∈ opcodeTable), encodeXss_selects rfl x⟩

theorem skipNotKey (x : Reg) : Statement (.skipNotKey x) :=
  ⟨(by decide : OpcodeRow.mk 0xE0A1 0xF0FF ∈ opcodeTable), encodeXss_selects rfl x⟩

theorem loadDelay (x : Reg) : Statement (.loadDelay x) :=
  ⟨(by decide : OpcodeRow.mk 0xF007 0xF0FF ∈ opcodeTable), encodeXss_selects rfl x⟩

theorem waitKey (x : Reg) : Statement (.waitKey x) :=
  ⟨(by decide : OpcodeRow.mk 0xF00A 0xF0FF ∈ opcodeTable), encodeXss_selects rfl x⟩

theorem storeDelay (x : Reg) : Statement (.storeDelay x) :=
  ⟨(by decide : OpcodeRow.mk 0xF015 0xF0FF ∈ opcodeTable), encodeXss_selects rfl x⟩

theorem storeSound (x : Reg) : Statement (.storeSound x) :=
  ⟨(by decide : OpcodeRow.mk 0xF018 0xF0FF ∈ opcodeTable), encodeXss_selects rfl x⟩

theorem addIndex (x : Reg) : Statement (.addIndex x) :=
  ⟨(by decide : OpcodeRow.mk 0xF01E 0xF0FF ∈ opcodeTable), encodeXss_selects rfl x⟩

theorem loadSpriteAddr (x : Reg) : Statement (.loadSpriteAddr x) :=
  ⟨(by decide : OpcodeRow.mk 0xF029 0xF0FF ∈ opcodeTable), encodeXss_selects rfl x⟩

theorem storeBcd (x : Reg) : Statement (.storeBcd x) :=
  ⟨(by decide : OpcodeRow.mk 0xF033 0xF0FF ∈ opcodeTable), encodeXss_selects rfl x⟩

theorem storeRegs (x : Reg) : Statement (.storeRegs x) :=
  ⟨(by decide : OpcodeRow.mk 0xF055 0xF0FF ∈ opcodeTable), encodeXss_selects rfl x⟩

theorem loadRegs (x : Reg) : Statement (.loadRegs x) :=
  ⟨(by decide : OpcodeRow.mk 0xF065 0xF0FF ∈ opcodeTable), encodeXss_selects rfl x⟩

end Sys2Proof.Laws.TableRow
end

