-- ==== Sys2Proof/Laws/Safety.lean ====
section
/-! SUPPORT. The small lemmas of the terms of Safety.lean: frames, and memory after a store. -/

namespace Sys2Proof

open Machine

/-- A frame that allows more changes is weaker. -/
theorem UnchangedBut.mono {ps qs : List Part} {s t : State} (h : UnchangedBut ps s t) (hs : ∀ p ∈ ps, p ∈ qs) :
    UnchangedBut qs s t := fun p hp => h p fun hm => hp (hs p hm)

/-- Nothing changes between a state and itself. -/
theorem UnchangedBut.refl (ps : List Part) (s : State) : UnchangedBut ps s s := by
  intro p _
  cases p
  case stack => exact ⟨rfl, rfl⟩
  all_goals rfl

/-- What a memory reads after a block is written: the stored bytes inside it, the old ones outside. -/
theorem read_writeImage_eq_byteAfterStore (m : Memory) (base : Nat) (bytes : List Byte) (a : Nat) :
    (writeImage m base bytes).read a = byteAfterStore m base bytes a := by
  rw [read_writeImage, byteAfterStore]
  split
  · rw [List.getD_eq_getElem?_getD, List.getElem?_eq_getElem (by omega)]; rfl
  · rfl

theorem byteAfterStore_outside {m : Memory} {base : Nat} {bytes : List Byte} {a : Nat}
    (h : a < base ∨ base + bytes.length ≤ a) : byteAfterStore m base bytes a = m.read a := if_neg (by omega)

end Sys2Proof
end

