-- ==== Sys2Proof/Tests/Slice0.lean ====
section
/-! SUPPORT. Tests. Every expected result is copied from spec/95_test_vectors.md (the row is named), or from the rule named; the
witnesses show, for each obligation with hypotheses, a state and operands that meet all of them together. -/

namespace Sys2Proof.Tests

open Machine

/-! Helpers: a small start state, and the projection of one step's result. -/

/-- The reset state with some registers set. -/
def regs (l : List (Reg × Byte)) : State := l.foldl (fun s p => s.setReg p.1 p.2) State.reset

/-- The reset state with some registers and `I` set. -/
def regsI (l : List (Reg × Byte)) (i : Addr) : State := (regs l).setI i

/-- Bytes placed in memory from an address upwards. -/
def put (s : State) (a : Nat) (bytes : List Byte) : State := s.setMem (writeImage s.mem a bytes)

/-- One field, or several, of the state after a run. -/
def look {α : Type} (r : Res State) (f : State → α) : Option α :=
  match r with
  | .next t => some (f t)
  | _ => none

/-- One step of the instruction whose word is `op`, placed at `pc`. -/
def run1 {α : Type} (op : Nat) (s : State) (f : State → α) : Option α := look (step (s.withFetchWord 16 op)) f

/-- The environment with settled replies to `toggle`. -/
def toggles (s : State) (l : List Bool) : State := s.setEnv { s.env with toggleReplies := l }

/-- The environment with settled replies to `isPressed`. -/
def keys (s : State) (l : List Bool) : State := s.setEnv { s.env with keyReplies := l }

/-- The environment with settled random bytes. -/
def randoms (s : State) (l : List Byte) : State := s.setEnv { s.env with randomBytes := l }

/-- The host operations to come. -/
def ops (s : State) (l : List HostOp) : State := s.setEnv { s.env with hostOps := l }

/-- A state inside a cycle with `k` instructions to go. -/
def inCycle (s : State) (k : Nat) : State := s.setCycle (some k)

/-- A core halted by an unknown opcode. -/
def halted : State := raiseFatal .unknownOpcode State.reset

/-- A core that waits for a key into V3. -/
def waiting : State := State.reset.beginWait 3

/-- A full stack, as row V1.6 has it. -/
def fullStack : State := { State.reset with depth := 16, stack := Vector.replicate 16 0x202 }

/-- One return address on the stack. -/
def oneFrame : State := { State.reset with depth := 1, stack := (Vector.replicate 16 0).set 0 0x204 }

/-! WellFormed: one ill-formed term for each check, which the check refuses (R68, R69, R92), and well-formed ones. -/

/-- Row V7: a near miss in every family that has illegal words. -/
theorem test_wf_refuses_illegal_words :
    ([0x0000, 0x0123, 0x00E1, 0x5121, 0x9001, 0x8008, 0x812F, 0xE000, 0xE19F, 0xF000, 0xF1FF, 0xF075].any opcodeWellFormed) = false := by decide

/-- Part 3: words of the programs. -/
theorem test_wf_accepts_legal_words :
    ([0x00E0, 0x00EE, 0x1204, 0x220C, 0x8014, 0xD005, 0xE09E, 0xF265].all opcodeWellFormed) = true := by decide

/-- Row V8.11: 3585 bytes are one too many. -/
theorem test_wf_refuses_oversized_image :
    imageWellFormed (List.replicate 3585 0xAB) = false := by
  rw [imageWellFormed, List.length_replicate]; decide

/-- Row V8.12: 3584 bytes fit. -/
theorem test_wf_accepts_largest_image :
    imageWellFormed (List.replicate 3584 0xAB) = true := by
  rw [imageWellFormed, List.length_replicate]; decide

/-! Decoding: for every constructor a word written out from the encoding of R66 (the words of 95_test_vectors.md). -/

/-- R66: `00E0`. -/
theorem test_decode_clearScreen :
    decodeTableWord 16 0x00E0 = some (.clearScreen) := by decide

/-- R66: `00EE`. -/
theorem test_decode_ret :
    decodeTableWord 16 0x00EE = some (.ret) := by decide

/-- R66: `1FFE`. -/
theorem test_decode_jump :
    decodeTableWord 16 0x1FFE = some (.jump 0xFFE) := by decide

/-- R66: `220C`. -/
theorem test_decode_call :
    decodeTableWord 16 0x220C = some (.call 0x20C) := by decide

/-- R66: `31A7`. -/
theorem test_decode_skipEqImm :
    decodeTableWord 16 0x31A7 = some (.skipEqImm 1 0xA7) := by decide

/-- R66: `4A10`. -/
theorem test_decode_skipNeImm :
    decodeTableWord 16 0x4A10 = some (.skipNeImm 10 0x10) := by decide

/-- R66: `5120`. -/
theorem test_decode_skipEqReg :
    decodeTableWord 16 0x5120 = some (.skipEqReg 1 2) := by decide

/-- R66: `60FE`. -/
theorem test_decode_loadImm :
    decodeTableWord 16 0x60FE = some (.loadImm 0 0xFE) := by decide

/-- R66: `7A80`. -/
theorem test_decode_addImm :
    decodeTableWord 16 0x7A80 = some (.addImm 10 0x80) := by decide

/-- R66: `8F10`. -/
theorem test_decode_copy :
    decodeTableWord 16 0x8F10 = some (.copy 15 1) := by decide

/-- R66: `8121`. -/
theorem test_decode_orReg :
    decodeTableWord 16 0x8121 = some (.orReg 1 2) := by decide

/-- R66: `8122`. -/
theorem test_decode_andReg :
    decodeTableWord 16 0x8122 = some (.andReg 1 2) := by decide

/-- R66: `8123`. -/
theorem test_decode_xorReg :
    decodeTableWord 16 0x8123 = some (.xorReg 1 2) := by decide

/-- R66: `81F4`. -/
theorem test_decode_addCarry :
    decodeTableWord 16 0x81F4 = some (.addCarry 1 15) := by decide

/-- R66: `8F15`. -/
theorem test_decode_subBorrow :
    decodeTableWord 16 0x8F15 = some (.subBorrow 15 1) := by decide

/-- R66: `8F06`. -/
theorem test_decode_shiftRight :
    decodeTableWord 16 0x8F06 = some (.shiftRight 15 0) := by decide

/-- R66: `8F17`. -/
theorem test_decode_reverseSub :
    decodeTableWord 16 0x8F17 = some (.reverseSub 15 1) := by decide

/-- R66: `801E`. -/
theorem test_decode_shiftLeft :
    decodeTableWord 16 0x801E = some (.shiftLeft 0 1) := by decide

/-- R66: `9120`. -/
theorem test_decode_skipNeReg :
    decodeTableWord 16 0x9120 = some (.skipNeReg 1 2) := by decide

/-- R66: `A123`. -/
theorem test_decode_loadIndex :
    decodeTableWord 16 0xA123 = some (.loadIndex 0x123) := by decide

/-- R66: `B234`. -/
theorem test_decode_jumpV0 :
    decodeTableWord 16 0xB234 = some (.jumpV0 0x234) := by decide

/-- R66: `C30F`. -/
theorem test_decode_random :
    decodeTableWord 16 0xC30F = some (.random 3 0x0F) := by decide

/-- R66: `D0F1`. -/
theorem test_decode_draw :
    decodeTableWord 16 0xD0F1 = some (.draw 0 15 1) := by decide

/-- R66: `E29E`. -/
theorem test_decode_skipKey :
    decodeTableWord 16 0xE29E = some (.skipKey 2) := by decide

/-- R66: `E2A1`. -/
theorem test_decode_skipNotKey :
    decodeTableWord 16 0xE2A1 = some (.skipNotKey 2) := by decide

/-- R66: `F307`. -/
theorem test_decode_loadDelay :
    decodeTableWord 16 0xF307 = some (.loadDelay 3) := by decide

/-- R66: `F10A`. -/
theorem test_decode_waitKey :
    decodeTableWord 16 0xF10A = some (.waitKey 1) := by decide

/-- R66: `F315`. -/
theorem test_decode_storeDelay :
    decodeTableWord 16 0xF315 = some (.storeDelay 3) := by decide

/-- R66: `F318`. -/
theorem test_decode_storeSound :
    decodeTableWord 16 0xF318 = some (.storeSound 3) := by decide

/-- R66: `FF1E`. -/
theorem test_decode_addIndex :
    decodeTableWord 16 0xFF1E = some (.addIndex 15) := by decide

/-- R66: `F029`. -/
theorem test_decode_loadSpriteAddr :
    decodeTableWord 16 0xF029 = some (.loadSpriteAddr 0) := by decide

/-- R66: `F033`. -/
theorem test_decode_storeBcd :
    decodeTableWord 16 0xF033 = some (.storeBcd 0) := by decide

/-- R66: `F255`. -/
theorem test_decode_storeRegs :
    decodeTableWord 16 0xF255 = some (.storeRegs 2) := by decide

/-- R66: `F265`. -/
theorem test_decode_loadRegs :
    decodeTableWord 16 0xF265 = some (.loadRegs 2) := by decide

/-- Row V7: unknown words have no instruction. -/
theorem test_decode_refuses :
    ([0x0000, 0x00EF, 0x8129, 0x9001, 0xE1A0, 0xF030].map (decodeTableWord 16)) = [none, none, none, none, none, none] := by decide

/-- The host's numbering: eight bits of a row are its low byte. -/
theorem test_decode_short_row :
    decodeTableWord 8 0x12E0 = some .clearScreen := by decide

/-! One step of each instruction (rows of part 2). -/

/-- Row V6.1: one `clear`, VF unchanged. -/
theorem test_clear_screen :
    run1 0x00E0 (regs [(15, 0x01)]) (fun t => (t.env.trace, t.reg 15, t.pc)) = some (([.request .frameClear], 0x01, 0x202)) := by decide

/-- Row V1.7: the slot is retained. -/
theorem test_return :
    run1 0x00EE (oneFrame.setPc 0x20E) (fun t => (t.pc, t.sp, t.stack[0])) = some ((0x204, -1, 0x204)) := by decide

/-- Row V1.8. -/
theorem test_return_empty :
    run1 0x00EE (State.reset.setPc 0x20E) (fun t => (t.fatal, t.paused, t.pc, t.sp)) = some ((some .stackUnderflow, true, 0x210, -1)) := by decide

/-- Row V1.1. -/
theorem test_jump :
    run1 0x1204 (State.reset.setPc 0x20A) (fun t => t.pc) = some (0x204) := by decide

/-- Row V1.3: an odd target is accepted. -/
theorem test_jump_odd :
    run1 0x1201 (State.reset) (fun t => t.pc) = some (0x201) := by decide

/-- Row V1.5. -/
theorem test_call :
    run1 0x220C (State.reset.setPc 0x202) (fun t => (t.pc, t.sp, t.stack[0])) = some ((0x20C, 0, 0x204)) := by decide

/-- Row V1.6. -/
theorem test_call_full :
    run1 0x2300 (fullStack.setPc 0x400) (fun t => (t.fatal, t.paused, t.pc, t.sp)) = some ((some .stackOverflow, true, 0x402, 15)) := by decide

/-- Row V1.12. -/
theorem test_skip_eq_imm_taken :
    run1 0x3100 (State.reset.setPc 0x208) (fun t => t.pc) = some (0x20C) := by decide

/-- Row V1.13. -/
theorem test_skip_eq_imm_not_taken :
    run1 0x3100 ((regs [(1, 0x04)]).setPc 0x208) (fun t => t.pc) = some (0x20A) := by decide

/-- Row V1.14. -/
theorem test_skip_ne_imm_taken :
    run1 0x4A10 ((regs [(10, 0x11)]).setPc 0x300) (fun t => t.pc) = some (0x304) := by decide

/-- Row V1.15. -/
theorem test_skip_ne_imm_not_taken :
    run1 0x4A10 ((regs [(10, 0x10)]).setPc 0x300) (fun t => t.pc) = some (0x302) := by decide

/-- Row V1.16. -/
theorem test_skip_eq_reg_taken :
    run1 0x5120 ((regs [(1, 0x07), (2, 0x07)]).setPc 0x210) (fun t => t.pc) = some (0x214) := by decide

/-- Row V1.17. -/
theorem test_skip_eq_reg_not_taken :
    run1 0x5120 ((regs [(1, 0x07), (2, 0x08)]).setPc 0x210) (fun t => t.pc) = some (0x212) := by decide

/-- Row V2.1. -/
theorem test_load_imm :
    run1 0x60FE (State.reset) (fun t => (t.reg 0, t.pc)) = some ((0xFE, 0x202)) := by decide

/-- Row V2.2: VF as an ordinary destination. -/
theorem test_load_imm_vf :
    run1 0x6F07 (State.reset) (fun t => t.reg 15) = some (0x07) := by decide

/-- Row V2.3: no carry recorded. -/
theorem test_add_imm_wraps :
    run1 0x7003 (regs [(0, 0xFE)]) (fun t => (t.reg 0, t.reg 15)) = some ((0x01, 0x00)) := by decide

/-- Row V2.5: VF as an ordinary destination. -/
theorem test_add_imm_vf :
    run1 0x7F01 (regs [(15, 0xFF)]) (fun t => t.reg 15) = some (0x00) := by decide

/-- Row V3.1. -/
theorem test_copy :
    run1 0x8010 (regs [(0, 0x11), (1, 0x5A), (15, 0x77)]) (fun t => (t.reg 0, t.reg 1, t.reg 15)) = some ((0x5A, 0x5A, 0x77)) := by decide

/-- Row V3.37. -/
theorem test_copy_to_vf :
    run1 0x8F10 (regs [(1, 0x5A), (15, 0x01)]) (fun t => t.reg 15) = some (0x5A) := by decide

/-- Row V3.2. -/
theorem test_or :
    run1 0x8011 (regs [(0, 0xF0), (1, 0x0F), (15, 0x77)]) (fun t => (t.reg 0, t.reg 15)) = some ((0xFF, 0x77)) := by decide

/-- Row V3.3. -/
theorem test_and :
    run1 0x8012 (regs [(0, 0xF3), (1, 0x3C), (15, 0x77)]) (fun t => (t.reg 0, t.reg 15)) = some ((0x30, 0x77)) := by decide

/-- Row V3.4. -/
theorem test_xor :
    run1 0x8013 (regs [(0, 0xFF), (1, 0x0F), (15, 0x77)]) (fun t => (t.reg 0, t.reg 15)) = some ((0xF0, 0x77)) := by decide

/-- Row V3.5. -/
theorem test_add_carry :
    run1 0x8014 (regs [(0, 0xC8), (1, 0x64), (15, 0x77)]) (fun t => (t.reg 0, t.reg 1, t.reg 15)) = some ((0x2C, 0x64, 0x01)) := by decide

/-- Row V3.24: the result is written, then the carry. -/
theorem test_add_carry_to_vf :
    run1 0x8F14 (regs [(15, 0xFF), (1, 0x02)]) (fun t => t.reg 15) = some (0x01) := by decide

/-- Row V3.9. -/
theorem test_sub_borrow :
    run1 0x8015 (regs [(0, 0x03), (1, 0x0A), (15, 0x77)]) (fun t => (t.reg 0, t.reg 1, t.reg 15)) = some ((0xF9, 0x0A, 0x00)) := by decide

/-- Row V3.10: equal operands give flag 0. -/
theorem test_sub_equal :
    run1 0x8015 (regs [(0, 0x07), (1, 0x07), (15, 0x77)]) (fun t => (t.reg 0, t.reg 15)) = some ((0x00, 0x00)) := by decide

/-- Row V3.11: V1 is ignored. -/
theorem test_shift_right :
    run1 0x8016 (regs [(0, 0x05), (1, 0xAA), (15, 0x77)]) (fun t => (t.reg 0, t.reg 1, t.reg 15)) = some ((0x02, 0xAA, 0x01)) := by decide

/-- Row V3.34: the result is lost. -/
theorem test_shift_right_vf :
    run1 0x8F06 (regs [(15, 0x02)]) (fun t => t.reg 15) = some (0x00) := by decide

/-- Row V3.16. -/
theorem test_reverse_sub :
    run1 0x8017 (regs [(0, 0x03), (1, 0x0A), (15, 0x77)]) (fun t => (t.reg 0, t.reg 1, t.reg 15)) = some ((0x07, 0x0A, 0x01)) := by decide

/-- Row V3.32. -/
theorem test_reverse_sub_vf :
    run1 0x8F17 (regs [(15, 0x03), (1, 0x09)]) (fun t => t.reg 15) = some (0x01) := by decide

/-- Row V3.19: V1 is ignored. -/
theorem test_shift_left :
    run1 0x801E (regs [(0, 0x81), (1, 0xAA), (15, 0x77)]) (fun t => (t.reg 0, t.reg 1, t.reg 15)) = some ((0x02, 0xAA, 0x01)) := by decide

/-- Row V3.36: the result is lost. -/
theorem test_shift_left_vf :
    run1 0x8F0E (regs [(15, 0x41)]) (fun t => t.reg 15) = some (0x00) := by decide

/-- Row V1.19. -/
theorem test_skip_ne_reg_taken :
    run1 0x9120 ((regs [(1, 0x07), (2, 0x08)]).setPc 0x210) (fun t => t.pc) = some (0x214) := by decide

/-- Row V1.21: X = Y never skips. -/
theorem test_skip_ne_reg_not_taken :
    run1 0x9330 ((regs [(3, 0x09)]).setPc 0x210) (fun t => t.pc) = some (0x212) := by decide

/-- Row V4.2. -/
theorem test_load_index :
    run1 0xAFFF (State.reset) (fun t => (t.I, t.pc)) = some ((0x0FFF, 0x202)) := by decide

/-- Row V1.10. -/
theorem test_jump_v0_no_mask :
    run1 0xBFFF (regs [(0, 0xFF)]) (fun t => t.pc) = some (0x10FE) := by decide

/-- Row V1.11: V2 is not used. -/
theorem test_jump_v0_not_v2 :
    run1 0xB234 (regs [(2, 0x10)]) (fun t => t.pc) = some (0x234) := by decide

/-- Row V2.6. -/
theorem test_random :
    run1 0xC30F (randoms State.reset [0xA7]) (fun t => (t.reg 3, t.env.trace)) = some ((0x07, [.request .randNext])) := by decide

/-- Row V2.7: one draw is still consumed. -/
theorem test_random_mask_zero :
    run1 0xC300 (randoms State.reset [0xFF]) (fun t => (t.reg 3, t.env.randomBytes)) = some ((0x00, [])) := by decide

/-- Row V6.3: wraps across the right edge on the same row. -/
theorem test_draw_wraps :
    run1 0xD011 (toggles (put (regsI [(0, 0x3E), (1, 0x1F)] 0x300) 0x300 [0xFF]) (List.replicate 8 false)) (fun t => (t.env.trace.drop 1, t.reg 15)) = some (([(63, 31), (0, 31), (1, 31), (2, 31), (3, 31), (4, 31), (5, 31)].map (fun p => .request (.frameToggle p)), 0x00)) := by decide

/-- Row V6.9: one reply is true. -/
theorem test_draw_collides :
    run1 0xD011 (toggles (put (regsI [] 0x300) 0x300 [0xF0]) [false, false, false, true]) (fun t => (t.reg 15, t.env.trace.length)) = some ((0x01, 4)) := by decide

/-- Row V5.6. -/
theorem test_skip_key :
    run1 0xE29E (keys (regs [(2, 0x05)]) [true]) (fun t => (t.pc, t.env.trace)) = some ((0x204, [.request (.keyIsPressed 5)])) := by decide

/-- Row V5.12: 0x15 is not masked to 5. -/
theorem test_skip_key_no_code :
    run1 0xE29E (keys (regs [(2, 0x15)]) [true]) (fun t => (t.pc, t.env.trace)) = some ((0x202, [])) := by decide

/-- Row V5.9. -/
theorem test_skip_not_key :
    run1 0xE2A1 (keys (regs [(2, 0x05)]) [false]) (fun t => t.pc) = some (0x204) := by decide

/-- Row V5.13. -/
theorem test_skip_not_key_no_code :
    run1 0xE2A1 (regs [(2, 0xFF)]) (fun t => (t.pc, t.env.trace)) = some ((0x204, [])) := by decide

/-- Row V5.2. -/
theorem test_load_delay :
    run1 0xFF07 ((regs [(15, 0x01)]).setDelay 0x2A) (fun t => t.reg 15) = some (0x2A) := by decide

/-- Row V5.14. -/
theorem test_wait_key :
    run1 0xF30A (regs [(3, 0x55)]) (fun t => (t.pc, t.paused, t.wait, t.reg 3, t.fatal)) = some ((0x202, true, some 3, 0x55, none)) := by decide

/-- Row V5.3. -/
theorem test_store_delay :
    run1 0xF315 (regs [(3, 0x10)]) (fun t => t.delay) = some (0x10) := by decide

/-- Row V5.5: no audio request. -/
theorem test_store_sound :
    run1 0xF318 (regs [(3, 0x10)]) (fun t => (t.sound, t.env.trace)) = some ((0x10, [])) := by decide

/-- Row V4.3. -/
theorem test_add_index_no_mask :
    run1 0xF01E (regsI [(0, 0x03)] 0x0FFE) (fun t => (t.I, t.reg 15)) = some ((0x1001, 0x00)) := by decide

/-- Row V4.4. -/
theorem test_add_index_wraps :
    run1 0xF01E (regsI [(0, 0x01), (15, 0x07)] 0xFFFF) (fun t => (t.I, t.reg 15)) = some ((0x0000, 0x07)) := by decide

/-- Row S5. -/
theorem test_sprite_addr :
    run1 0xF029 (regs [(0, 0x0F)]) (fun t => t.I) = some (0x004B) := by decide

/-- Row S5: 16 is no digit. -/
theorem test_sprite_addr_invalid :
    run1 0xF029 (regsI [(0, 0x10)] 0x0123) (fun t => (t.fatal, t.paused, t.I, t.pc)) = some ((some .invalidDigit, true, 0x0123, 0x202)) := by decide

/-- Row V4.7. -/
theorem test_store_bcd :
    run1 0xF033 (regsI [(0, 0x7B)] 0x0FFD) (fun t => [0xFFD, 0xFFE, 0xFFF].map t.mem.read) = some ([0x01, 0x02, 0x03]) := by decide

/-- Row V4.8: no partial write. -/
theorem test_store_bcd_out_of_range :
    run1 0xF033 (put (regsI [(0, 0x7B)] 0x0FFE) 0xFFE [0xEE, 0xEE]) (fun t => (t.fatal, t.pc, [0xFFE, 0xFFF].map t.mem.read)) = some ((some .addressOutOfRange, 0x202, [0xEE, 0xEE])) := by decide

/-- Row V4.11. -/
theorem test_store_regs :
    run1 0xF255 (regsI [(0, 0x11), (1, 0x22), (2, 0x33), (3, 0x44)] 0x300) (fun t => ([0x2FF, 0x300, 0x301, 0x302, 0x303].map t.mem.read, t.I)) = some (([0x00, 0x11, 0x22, 0x33, 0x00], 0x300)) := by decide

/-- Row V4.22: the instruction overwrites its own first byte. -/
theorem test_store_regs_own_word :
    run1 0xF055 (regsI [(0, 0x12)] 0x200) (fun t => ([0x200, 0x201].map t.mem.read, t.pc)) = some (([0x12, 0x55], 0x202)) := by decide

/-- Row V4.17. -/
theorem test_load_regs :
    run1 0xF265 (put (regsI [(3, 0x99)] 0x300) 0x300 [0x01, 0x02, 0x03, 0x04]) (fun t => ([0, 1, 2, 3].map t.reg, t.I)) = some (([0x01, 0x02, 0x03, 0x99], 0x300)) := by decide

/-- Row V4.20: no register is loaded. -/
theorem test_load_regs_out_of_range :
    run1 0xF165 (put (regsI [(0, 0x05), (1, 0x06)] 0xFFF) 0xFFF [0x77]) (fun t => (t.fatal, t.reg 0, t.reg 1)) = some ((some .addressOutOfRange, 0x05, 0x06)) := by decide

/-! Fetch, tick, host operations (rows V7, V8, V9, S9, S10). -/

/-- Row V7, first table. -/
theorem test_fetch_unknown :
    run1 0x5121 State.reset (fun t => (t.fatal, t.paused, t.pc)) = some (some .unknownOpcode, true, 0x202) := by decide

/-- Row V7, fetch 1. -/
theorem test_fetch_last :
    run1 0x6011 (State.reset.setPc 0xFFE) (fun t => (t.reg 0, t.pc, t.fatal)) = some (0x11, 0x1000, none) := by decide

/-- Row V7, fetch 3. -/
theorem test_fetch_beyond :
    look (step (inCycle (State.reset.setPc 0xFFF) 1)) (fun t => (t.fatal, t.pc)) = some (some .addressOutOfRange, 0xFFF) := by decide

/-- Row V7, fetch 6: low memory is executable. -/
theorem test_fetch_glyphs :
    look (step (inCycle (State.reset.setPc 0x032) 1)) (fun t => (t.fatal, t.pc)) = some (some .unknownOpcode, 0x034) := by decide

/-- Row V8.4. -/
theorem test_tick_tone :
    look (step (inCycle (State.reset.setSound 0x02) 0)) (fun t => (t.sound, t.env.trace)) =
      some (0x01, [.request .audioStartTone, .request .framePresent, .reply (.status .completed)]) := by decide

/-- Row V8.3: sound 1 never starts the tone. -/
theorem test_tick_last :
    look (step (inCycle ((State.reset.setSound 0x01).setDelay 0x01) 0)) (fun t => (t.delay, t.sound, t.env.trace.take 1)) =
      some (0x00, 0x00, [.request .audioStopTone]) := by decide

/-- Row S9, the floor. -/
theorem test_timer_decay :
    look (runCycle 0 State.reset) (fun t => (t.delay, t.sound)) = some (0x00, 0x00) := by decide

/-- Row V8.7: a halted core answers `Halted` and does not tick. -/
theorem test_cycle_halted :
    look (runCycle 3 (halted.setDelay 0x05)) (fun t => (t.delay, t.env.trace)) =
      some (0x05, [.reply (.status (.halted .unknownOpcode))]) := by decide

/-- Row V8.9: a waiting core answers `BlockedOnKey`. -/
theorem test_cycle_blocked :
    look (runCycle 5 (waiting.setDelay 0x09)) (fun t => (t.delay, t.env.trace)) =
      some (0x09, [.reply (.status .blockedOnKey)]) := by decide

/-- Row V8.15: `RunCycle(1)` with no program. -/
theorem test_empty_memory_halts :
    look (step (inCycle State.reset 1)) (fun t => (t.fatal, t.pc)) = some (some .unknownOpcode, 0x202) := by decide

/-- Row V8.13. -/
theorem test_load_keeps_old_bytes :
    [0x200, 0x201, 0x202, 0x203, 0x204].map (loadProgram [0x09] (loadProgram [0x01, 0x02, 0x03, 0x04] State.reset)).mem.read =
      [0x09, 0x02, 0x03, 0x04, 0x00] := by decide

/-- Row V5.15. -/
theorem test_key_press :
    ((keyPress 0xB waiting).reg 3, (keyPress 0xB waiting).wait, (keyPress 0xB waiting).paused) = (0x0B, none, false) := by decide

/-- Row V5.17: still halted. -/
theorem test_key_press_halted :
    keyPress 0x3 halted = halted := by decide

/-- Row V9.1. -/
theorem test_reset_after_wait :
    resetCore (put (waiting.setDelay 0x09) 0x200 [0x60]) = State.reset := by decide

/-- Row V9.3. -/
theorem test_reset_reloads_glyphs :
    (resetCore (put State.reset 0x032 [0x00])).mem.read 0x032 = 0xF0 := by decide

/-- Row S10: the bytes 0x000 to 0x04F sum to 13008. -/
theorem test_glyph_sum :
    ((List.range 80).map fun a => (State.reset.mem.read a).toNat).sum = 13008 := by decide

/-! Witnesses: for each obligation with hypotheses, a state and operands that meet all of them together. -/

/-- A word followed by another byte. -/
theorem witness_EncodeOfDecode :
    decodeBytes [0x22, 0x0C, 0x99] = .instr (.call 0x20C) [0x99] := by decide

/-- A word that decodes. -/
theorem witness_DecoderAcceptsExactlyTheOpcodeMap :
    decodeOpcode 0xF265 = some (.loadRegs 2) := by decide

/-- A word its row selects. -/
theorem witness_OpcodeRowsAreDisjoint :
    OpcodeRow.mk 0xF065 0xF0FF ∈ opcodeTable ∧ (OpcodeRow.mk 0xF065 0xF0FF).selects 0xF265 = true := by decide

/-- The highest address an instruction can stand at. -/
theorem witness_StepRunsTheDecodedInstruction :
    let s := inCycle (put (State.reset.setPc 0xFFE) 0xFFE [0x60, 0x11]) 1
    s.cycle = some (0 + 1) ∧ s.paused = false ∧ s.pc.toNat ≤ 4094 ∧
      decodeBytes [s.mem.read s.pc.toNat, s.mem.read (s.pc.toNat + 1)] = .instr (.loadImm 0 0x11) [] := by decide

/-- The highest address. -/
theorem witness_FetchIsBigEndian :
    (State.reset.setPc 0xFFE).pc.toNat ≤ 4094 := by decide

/-- An unknown word at the highest address. -/
theorem witness_StepWithoutAnInstructionHalts_unknown :
    let s := inCycle (State.reset.setPc 0xFFE) 1
    s.cycle = some (0 + 1) ∧ s.paused = false ∧ s.pc.toNat ≤ 4094 ∧
      decodeBytes [s.mem.read s.pc.toNat, s.mem.read (s.pc.toNat + 1)] = .unknownOpcode 0x0000 := by decide

/-- The lowest address at which nothing can be fetched. -/
theorem witness_StepWithoutAnInstructionHalts_range :
    let s := inCycle (State.reset.setPc 0xFFF) 1
    s.cycle = some (0 + 1) ∧ s.paused = false ∧ 4095 ≤ s.pc.toNat := by decide

/-- Two cells listed, and an instruction that stores. -/
theorem witness_StepKeepsMemoryCanonical :
    let s := inCycle (put (State.reset.setI 0x300) 0x200 [0xF0, 0x33]) 1
    s.mem.wf ∧ ∃ t, step s = .next t := ⟨by decide, _, rfl⟩

/-- A waiting core, and a halted one. -/
theorem witness_PauseInvariantHolds :
    (PauseConsistent waiting ∧ ∃ t, step waiting = .next t) ∧ PauseConsistent halted ∧ halted.fatal ≠ none := ⟨⟨by decide, _, rfl⟩, by decide, by decide⟩

/-- The program counter at its bound. -/
theorem witness_StepKeepsAddressesBounded :
    AddressesBounded (fullStack.setPc 0x10FE) ∧ ∃ t, step (fullStack.setPc 0x10FE) = .next t := ⟨by decide, _, rfl⟩

/-- A halted core at the end of a cycle. -/
theorem witness_PausedCycleOnlyReturnsItsStatus_halted :
    (inCycle halted 0).cycle = some 0 ∧ (inCycle halted 0).paused = true := by decide

/-- A waiting core inside a cycle. -/
theorem witness_PausedCycleOnlyReturnsItsStatus_waiting :
    (inCycle waiting 3).cycle = some 3 ∧ (inCycle waiting 3).paused = true := by decide

/-- A halted core. -/
theorem witness_HaltedCoreIgnoresAllButReset :
    PauseConsistent halted ∧ halted.fatal = some .unknownOpcode := by decide

/-- A halted core that receives a key and a cycle. -/
theorem witness_HaltLastsUntilReset :
    let s := ops halted [.keyPress 3, .runCycle 2]
    PauseConsistent s ∧ s.fatal = some .unknownOpcode ∧ HostOp.reset ∉ s.env.hostOps ∧
      ∃ t, runSteps 3 s = .next t := ⟨by decide, by decide, by decide, _, rfl⟩

/-- A cycle requested from reset. -/
theorem witness_StepsRefineRunCycle :
    (ops State.reset [.runCycle 3]).cycle = none ∧ (ops State.reset [.runCycle 3]).env.hostOps = .runCycle 3 :: [] := by decide

/-- The end of a cycle, the sound timer at the boundary of the tone. -/
theorem witness_TickCountsAndPresents :
    let s := inCycle (State.reset.setSound 0x01) 0
    PauseConsistent s ∧ s.cycle = some 0 ∧ s.paused = false := by decide

/-- Both clauses. -/
theorem witness_RunCycleOfZero :
    State.reset.paused = false ∧ waiting.paused = true := by decide

/-- A running core. -/
theorem witness_TimersFallByOnePerCycle :
    ((State.reset.setDelay 0x05).setSound 0x01).paused = false := by decide

/-- A halted core that is reset. -/
theorem witness_ResetIsHistoryFree :
    (ops halted [.reset]).cycle = none ∧ (ops halted [.reset]).env.hostOps = .reset :: [] := by decide

/-- The longest image that fits. -/
theorem witness_LoadProgramCopiesOrRefuses_fits :
    let image := List.replicate 3584 (0xAB : Byte)
    (ops State.reset [.loadProgram image]).cycle = none ∧
      (ops State.reset [.loadProgram image]).env.hostOps = .loadProgram image :: [] ∧ image.length ≤ 3584 := ⟨rfl, rfl, by rw [List.length_replicate]⟩

/-- The shortest image that does not fit. -/
theorem witness_LoadProgramCopiesOrRefuses_refused :
    let image := List.replicate 3585 (0xAB : Byte)
    (ops State.reset [.loadProgram image]).cycle = none ∧
      (ops State.reset [.loadProgram image]).env.hostOps = .loadProgram image :: [] ∧ 3584 < image.length := ⟨rfl, rfl, by rw [List.length_replicate]; decide⟩

/-- A wait pending. -/
theorem witness_KeyPressEndsAPendingWait_waiting :
    let s := ops waiting [.keyPress 15]
    s.cycle = none ∧ s.env.hostOps = .keyPress 15 :: [] ∧ s.wait = some 3 := by decide

/-- No wait pending. -/
theorem witness_KeyPressEndsAPendingWait_ignored :
    let s := ops State.reset [.keyPress 0]
    s.cycle = none ∧ s.env.hostOps = .keyPress 0 :: [] ∧ s.wait = none := by decide

/-- A running core. -/
theorem witness_WaitForKeyThenKey :
    State.reset.paused = false ∧ State.reset.wait = none := by decide

/-- An instruction that completes. -/
theorem witness_AccessMatrixOfWrites :
    ∃ t, exec (.call 0x300) State.reset = .next t := ⟨_, rfl⟩

/-- Each condition at the last value where it fails and the first where it holds. -/
theorem witness_FatalConditionsArePrecise :
    Instr.fatalCondition .ret State.reset = some .stackUnderflow ∧ Instr.fatalCondition .ret oneFrame = none ∧
    Instr.fatalCondition (.call 0x300) fullStack = some .stackOverflow ∧
    Instr.fatalCondition (.call 0x300) State.reset = none ∧
    Instr.fatalCondition (.loadSpriteAddr 0) (regs [(0, 0x10)]) = some .invalidDigit ∧
    Instr.fatalCondition (.loadSpriteAddr 0) (regs [(0, 0x0F)]) = none ∧
    Instr.fatalCondition (.draw 0 0 15) (regsI [] 0xFF2) = some .addressOutOfRange ∧
    Instr.fatalCondition (.draw 0 0 15) (regsI [] 0xFF1) = none ∧
    Instr.fatalCondition (.storeBcd 0) (regsI [] 0xFFE) = some .addressOutOfRange ∧
    Instr.fatalCondition (.storeBcd 0) (regsI [] 0xFFD) = none ∧
    Instr.fatalCondition (.storeRegs 15) (regsI [] 0xFF1) = some .addressOutOfRange ∧
    Instr.fatalCondition (.storeRegs 15) (regsI [] 0xFF0) = none ∧
    Instr.fatalCondition (.loadRegs 1) (regsI [] 0xFFF) = some .addressOutOfRange ∧
    Instr.fatalCondition (.loadRegs 0) (regsI [] 0xFFF) = none := by decide

/-- An instruction that writes the flag. -/
theorem witness_OnlySixInstructionsWriteTheFlag_flag :
    (∃ t, exec (.addCarry 1 2) State.reset = .next t) ∧ Instr.fatalCondition (.addCarry 1 2) State.reset = none ∧
      (Instr.addCarry 1 2).writesFlag = true := ⟨⟨_, rfl⟩, by decide, by decide⟩

/-- An instruction that does not. -/
theorem witness_OnlySixInstructionsWriteTheFlag_other :
    (∃ t, exec (.addImm 1 2) State.reset = .next t) ∧ Instr.fatalCondition (.addImm 1 2) State.reset = none ∧
      (Instr.addImm 1 2).writesFlag = false ∧ Part.reg VF ∉ (Instr.addImm 1 2).mayWrite State.reset := ⟨⟨_, rfl⟩, by decide, by decide, by decide⟩

/-- An instruction that issues a request. -/
theorem witness_RequestsComeFromTheirInstructions :
    ∃ t, exec .clearScreen State.reset = .next t := ⟨_, rfl⟩

/-- The highest address, one stored byte and one old byte. -/
theorem witness_StoreIsSeenByTheNextFetch_registers :
    let s := (State.reset.setPc 0xFFE).setI 0xFFF
    s.pc.toNat ≤ 4094 ∧ s.I.toNat + (0 : Reg).val ≤ 4095 := by decide

/-- Three digits over the two bytes at the highest address. -/
theorem witness_StoreIsSeenByTheNextFetch_digits :
    let s := (State.reset.setPc 0xFFE).setI 0xFFD
    s.pc.toNat ≤ 4094 ∧ s.I.toNat + 2 ≤ 4095 := by decide

/-- One slot free, and none. -/
theorem witness_CallPushesTheReturnAddress :
    ({ fullStack with depth := 15 } : State).sp < 15 ∧ fullStack.sp = 15 := by decide

/-- One entry, and none. -/
theorem witness_ReturnPopsTheReturnAddress :
    0 ≤ oneFrame.sp ∧ State.reset.sp = -1 := by decide

/-- A call, and a nested call and return that leave a stale slot above. -/
theorem witness_ReturnResumesAfterTheCall :
    State.reset.sp < 15 ∧ ∃ t u : State, exec (.call 0x300) State.reset = .next t ∧
      andThen (exec (.call 0x400) t) (exec .ret) = .next u ∧ u.depth = t.depth ∧
      u.stack[State.reset.depth.val]? = t.stack[State.reset.depth.val]? ∧ u.stack ≠ t.stack := ⟨by decide, _, _, rfl, rfl, rfl, rfl, by decide⟩

/-- 16 and 17 targets. -/
theorem witness_SixteenCallsThenOverflow :
    State.reset.sp = -1 ∧ State.reset.fatal = none ∧ (List.replicate 16 (0x300 : BitVec 12)).length ≤ 16 ∧
      (List.replicate 17 (0x300 : BitVec 12)).length = 17 := by decide

/-- A settled byte. -/
theorem witness_RandomAndsOneDraw :
    (randoms State.reset [0xA7]).env.randomBytes = 0xA7 :: [] := by decide

/-- A destination that is not the flag register. -/
theorem witness_AddWithCarry :
    (0 : Reg) ≠ VF := by decide

/-- A destination that is not the flag register. -/
theorem witness_SubtractBothOrders :
    (14 : Reg) ≠ VF := by decide

/-- A destination that is not the flag register. -/
theorem witness_ShiftsByOne :
    (1 : Reg) ≠ VF := by decide

/-- The last digit, and the first value that is none. -/
theorem witness_SpriteAddressOfADigit :
    ((regs [(0, 0x0F)]).reg 0).toNat ≤ 15 ∧ 15 < ((regs [(0, 0x10)]).reg 0).toNat := by decide

/-- The last base that fits, and the first that does not. -/
theorem witness_StoreBcdWritesThreeDigits :
    (State.reset.setI 0xFFD).I.toNat + 2 ≤ 4095 ∧ 4095 < (State.reset.setI 0xFFE).I.toNat + 2 := by decide

/-- The last base that fits, and the first that does not. -/
theorem witness_StoreRegistersWritesTheBlock :
    (State.reset.setI 0xFF0).I.toNat + (15 : Reg).val ≤ 4095 ∧ 4095 < (State.reset.setI 0xFF1).I.toNat + (15 : Reg).val := by decide

/-- The last base that fits, and the first that does not. -/
theorem witness_LoadRegistersReadsTheBlock :
    (State.reset.setI 0xFFF).I.toNat + (0 : Reg).val ≤ 4095 ∧ 4095 < (State.reset.setI 0x1000).I.toNat + (0 : Reg).val := by decide

/-- A store of all sixteen, and the state it leaves. -/
theorem witness_StoredRegistersLoadBack :
    (State.reset.setI 0xFF0).I.toNat + (15 : Reg).val ≤ 4095 ∧
      ∃ t u : State, exec (.storeRegs 15) (State.reset.setI 0xFF0) = .next t ∧ u.mem = t.mem ∧ u.I = t.I := ⟨by decide, _, _, rfl, rfl, rfl⟩

/-- The last key code, with a settled reply. -/
theorem witness_KeySkipsAskOnce :
    ((keys (regs [(2, 0x0F)]) [true]).reg 2).toNat = (15 : Key).val ∧ (keys (regs [(2, 0x0F)]) [true]).env.keyReplies = true :: [] := by decide

/-- The first value that is no key code. -/
theorem witness_KeySkipsOfNoKey :
    15 < ((regs [(2, 0x10)]).reg 2).toNat := by decide

/-- No rows, the index outside memory. -/
theorem witness_DrawTogglesEachSetBit_empty :
    (0 : BitVec 4).toNat = 0 ∨ (State.reset.setI 0x1234).I.toNat + (0 : BitVec 4).toNat - 1 ≤ 4095 := by decide

/-- The last base of fifteen rows; and a row of four set bits with its settled replies. -/
theorem witness_DrawTogglesEachSetBit_replies :
    ((15 : BitVec 4).toNat = 0 ∨ (State.reset.setI 0xFF1).I.toNat + (15 : BitVec 4).toNat - 1 ≤ 4095) ∧
    (let s := toggles (put (regsI [] 0x300) 0x300 [0xF0]) [false, false, false, true, true]
     s.I.toNat + (1 : BitVec 4).toNat - 1 ≤ 4095 ∧ s.env.toggleReplies = [false, false, false, true] ++ [true] ∧
       [false, false, false, true].length = (drawPixels s 0 1 1).length) := by decide

/-- One covered pixel set before, on an otherwise empty frame. -/
theorem witness_DrawOnTheReferenceFrame :
    let f : Frame := fun p => p == (3, 0)
    let s := toggles (put (regsI [] 0xFFF) 0xFFF [0xF0]) [false, false, false, true]
    ((1 : BitVec 4).toNat = 0 ∨ s.I.toNat + (1 : BitVec 4).toNat - 1 ≤ 4095) ∧
      s.env.toggleReplies = f.replies (drawPixels s 0 1 1) ++ [] := by decide

/-- A covered pixel. -/
theorem witness_DrawnPixelsAreDistinct :
    (0, 0) ∈ drawPixels (put (regsI [] 0x300) 0x300 [0x80]) 0 1 1 := by decide

/-- Two pixels, drawn and drawn again. -/
theorem witness_DrawingTwiceErasesTheSprite :
    let s := toggles (put (regsI [] 0xFFF) 0xFFF [0xC0]) [false, false, true, true]
    (0 : Reg) ≠ VF ∧ (1 : Reg) ≠ VF ∧ ((1 : BitVec 4).toNat = 0 ∨ s.I.toNat + (1 : BitVec 4).toNat - 1 ≤ 4095) ∧
      s.env.toggleReplies = Frame.blank.replies (drawPixels s 0 1 1 ++ drawPixels s 0 1 1) ++ [] ∧ drawPixels s 0 1 1 ≠ [] := by decide

end Sys2Proof.Tests
end

section
/-! The fetch (spec R44): what it reads inside memory, and the value of the word it makes. -/

namespace Sys2Proof.Machine

/-- A word is its high byte times 256 plus its low byte (spec R44). -/
theorem opcodeOfBytes_toNat (hi lo : Byte) : (opcodeOfBytes hi lo).toNat = hi.toNat * 256 + lo.toNat := by
  rw [opcodeOfBytes, BitVec.toNat_append, ← Nat.shiftLeft_add_eq_or_of_lt lo.isLt, Nat.shiftLeft_eq]

/-- Where both bytes lie inside memory, the fetch answers the byte at `pc` and then the byte at `pc + 1`. -/
theorem fetchBytes_in {s : State} (h : s.pc.toNat ≤ 4094) :
    fetchBytes s = .next [s.mem.read s.pc.toNat, s.mem.read (s.pc.toNat + 1)] :=
  memReadBlock_in (by omega)

end Sys2Proof.Machine

namespace Sys2Proof

open Machine

/-- Settles O7: the fetch answers the two bytes at `pc` in the order of their addresses, and the first is the word's high
byte. -/
theorem fetchIsBigEndian : Obligations.FetchIsBigEndian :=
  fun _ h => ⟨_, _, fetchBytes_in h, opcodeOfBytes_toNat _ _⟩

end Sys2Proof
end

section
/-! Control transfer (spec 41_control_transfer.md): a jump and a skip change the program counter at most. -/

namespace Sys2Proof

open Machine

/-- Frame of an assignment to `pc` (spec R100). -/
theorem setPc_unchangedBut (s : State) (a : Addr) : UnchangedBut [.pc] s (s.setPc a) := by
  intro p hp
  cases p
  case pc => simp at hp
  case stack => exact ⟨rfl, rfl⟩
  all_goals rfl

/-- Frame of a skip, taken or not (spec R109). -/
theorem skipIf_unchangedBut (s : State) (taken : Bool) : UnchangedBut [.pc] s (s.skipIf taken) := by
  cases taken with
  | false => exact .refl _ s
  | true => exact setPc_unchangedBut s _

/-- The 12-bit operand is zero-extended to an address (spec R102). -/
@[simp] theorem addrOfImm_toNat (nnn : BitVec 12) : (addrOfImm nnn).toNat = nnn.toNat :=
  BitVec.toNat_setWidth_of_le (by decide)

/-- An instruction that only skips on a test moves `pc` by the condition the test decides. -/
theorem exec_skip {i : Instr} {s : State} {test : Bool} {cond : Prop} [Decidable cond]
    (hexec : exec i s = .next (s.skipIf test)) (htest : test = true ↔ cond) :
    ∃ t, exec i s = .next t ∧ t.pc = (if cond then s.pc + 2 else s.pc) ∧ UnchangedBut [.pc] s t := by
  have hpc : (s.skipIf test).pc = if cond then s.pc + 2 else s.pc := by simp [htest]
  exact ⟨_, hexec, hpc, skipIf_unchangedBut s test⟩

/-- Settles O31: the handler assigns the zero-extended operand to `pc`, and that assignment touches no other part. -/
theorem jumpSetsPc : Obligations.JumpSetsPc :=
  fun nnn s => ⟨_, rfl, addrOfImm_toNat nnn, setPc_unchangedBut s _⟩

/-- Settles O37: each of the four handlers is a skip on the Boolean test of its own condition. -/
theorem conditionalSkips : Obligations.ConditionalSkips :=
  fun _ _ _ _ => ⟨exec_skip rfl beq_iff_eq, exec_skip rfl bne_iff_ne, exec_skip rfl beq_iff_eq, exec_skip rfl bne_iff_ne⟩

end Sys2Proof
end

section
/-! Immediate operations (spec 42_immediate_ops.md): each assigns one register and nothing else. -/

namespace Sys2Proof

open Machine

/-- Frame of an assignment to a register (spec R120). -/
theorem setReg_unchangedBut (s : State) (x : Reg) (v : Byte) : UnchangedBut [.reg x] s (s.setReg x v) := by
  intro p hp
  cases p
  case reg r =>
    have hr : r ≠ x := by simpa using hp
    exact State.reg_setReg_other s hr v
  case stack => exact ⟨rfl, rfl⟩
  all_goals rfl

/-- The 8-bit sum is the sum of the values modulo 256 (spec R122). -/
theorem sumByte_toNat (a b : Byte) : (sumByte a b).toNat = (a.toNat + b.toNat) % 256 := BitVec.toNat_ofNat _ 8

/-- Settles O38: the handler assigns the operand to `Vx`, and that assignment touches no other part. -/
theorem loadImmediate : Obligations.LoadImmediate :=
  fun x nn s => ⟨_, rfl, State.reg_setReg_same s x nn, setReg_unchangedBut s x nn⟩

/-- Settles O39: the handler assigns the 8-bit sum to `Vx`, which is the sum modulo 256, and assigns no flag. -/
theorem addImmediate : Obligations.AddImmediate := by
  intro x nn s
  have hsum : ((s.setReg x (sumByte (s.reg x) nn)).reg x).toNat = ((s.reg x).toNat + nn.toNat) % 256 := by
    rw [State.reg_setReg_same, sumByte_toNat]
  exact ⟨_, rfl, hsum, setReg_unchangedBut s x _⟩

end Sys2Proof
end

section
/-! Index and memory (spec 44_index_memory.md): loading the index touches no other part. -/

namespace Sys2Proof

open Machine

/-- Frame of an assignment to `I` (spec R151). -/
theorem setI_unchangedBut (s : State) (a : Addr) : UnchangedBut [.index] s (s.setI a) := by
  intro p hp
  cases p
  case index => simp at hp
  case stack => exact ⟨rfl, rfl⟩
  all_goals rfl

/-- Settles O45: the handler assigns the zero-extended operand to `I`, and that assignment touches no other part. -/
theorem loadIndex : Obligations.LoadIndex :=
  fun nnn s => ⟨_, rfl, addrOfImm_toNat nnn, setI_unchangedBut s _⟩

end Sys2Proof
end

section
/-! Timers (spec 45_timers_keys.md): each move assigns its destination and nothing else, the request trace included. -/

namespace Sys2Proof

open Machine

/-- Frame of an assignment to the delay timer (spec R172). -/
theorem setDelay_unchangedBut (s : State) (v : Byte) : UnchangedBut [.delay] s (s.setDelay v) := by
  intro p hp
  cases p
  case delay => simp at hp
  case stack => exact ⟨rfl, rfl⟩
  all_goals rfl

/-- Frame of an assignment to the sound timer (spec R173). -/
theorem setSound_unchangedBut (s : State) (v : Byte) : UnchangedBut [.sound] s (s.setSound v) := by
  intro p hp
  cases p
  case sound => simp at hp
  case stack => exact ⟨rfl, rfl⟩
  all_goals rfl

/-- Settles O52: each handler is one assignment, to `Vx`, to the delay timer or to the sound timer, and that assignment
touches no other part. -/
theorem timerMoves : Obligations.TimerMoves := by
  intro x s
  refine ⟨⟨_, rfl, ?_, setReg_unchangedBut s x _⟩, ⟨_, rfl, ?_, setDelay_unchangedBut s _⟩,
    ⟨_, rfl, ?_, setSound_unchangedBut s _⟩⟩
  · exact State.reg_setReg_same s x s.delay
  · exact State.setDelay_delay s (s.reg x)
  · exact State.setSound_sound s (s.reg x)

end Sys2Proof
end

section
/-! Display (spec 46_display.md): a request to a collaborator adds to the trace and changes no core state. -/

namespace Sys2Proof

open Machine

/-- Frame of a request that takes no reply (spec R191). -/
theorem request_unchangedBut (s : State) (r : Request) : UnchangedBut [.trace] s (s.setEnv (s.env.request r)) := by
  intro p hp
  cases p
  case trace => simp at hp
  case stack => exact ⟨rfl, rfl⟩
  all_goals rfl

/-- Settles O55: the handler is one `clear` request, and a request touches no part but the trace. -/
theorem clearScreenRequestsClear : Obligations.ClearScreenRequestsClear :=
  fun s => ⟨_, rfl, Env.request_trace s.env .frameClear, request_unchangedBut s .frameClear⟩

end Sys2Proof
end

section
/-! Host operations (spec 70_reset_and_hazards.md, 50_interfaces.md R201): between cycles a step is the next pending one. -/

namespace Sys2Proof.Machine

/-- Between cycles a step takes the next host operation from the queue and performs it (spec R80, R201). -/
theorem step_hostOperation {s : State} {op : HostOp} {rest : List HostOp} (hcycle : s.cycle = none)
    (hops : s.env.hostOps = op :: rest) :
    step s = .next (hostOperation op (s.setEnv { s.env with hostOps := rest })) := by
  simp only [step, machineStep, hcycle, nextHostOp, hops]

/-- A reset forgets everything but the environment (spec R261, R262). -/
theorem resetCore_eq_of_env_eq {s t : State} (henv : s.env = t.env) : resetCore s = resetCore t := by
  simp only [resetCore, henv]

end Sys2Proof.Machine

namespace Sys2Proof

open Machine

/-- Settles O21: the step is the pending reset, which builds its state from the environment alone; and since a reset keeps
the environment, a second one builds the same state again. -/
theorem resetIsHistoryFree : Obligations.ResetIsHistoryFree :=
  fun s _ hcycle hops => ⟨step_hostOperation hcycle hops, resetCore_eq_of_env_eq (resetCore_env s)⟩

end Sys2Proof
end

section
/-! Encoding (spec 30_encoding.md): the decoder and the encoder are inverse to each other, and both agree with
the opcode map. -/

namespace Sys2Proof

/-! The encoder is undone by the decoder. -/

/-- Decoding the word of an instruction gives it back: the fields of a word are what its format put there. -/
theorem decodeOpcode_encode (i : Instr) : decodeOpcode (encode i) = some i := by
  cases i
  case clearScreen | ret => decide
  all_goals
    rw [decodeOpcode_of_family (by simp [encode])]
    simp [encode, decodeFamily, decodeFamily8, decodeFamilyE, decodeFamilyF]

/-- Settles O1: the bytes make the word again (R44), and decoding the word of an instruction gives the instruction. -/
theorem decodeOfEncode : Obligations.DecodeOfEncode := by
  intro i rest
  simp [encodeBytes, decodeBytes, decodeOpcode_encode]

/-! The decoder is undone by the encoder. -/

/-- A word of known family is format `NNN` of its own fields. -/
theorem encodeNNN_of_family {op : Opcode} {f : BitVec 4} (hf : opFamily op = f.toNat) :
    encodeNNN f (opNNN op) = op := by
  obtain rfl : op.extractLsb' 12 4 = f := BitVec.eq_of_toNat_eq hf
  exact encodeNNN_fields op

/-- A word of known family and low byte is format `XNN` of its own fields. -/
theorem encodeXNN_of_family {op : Opcode} {f : BitVec 4} {nn : Byte} (hf : opFamily op = f.toNat) (hn : opNN op = nn) :
    encodeXNN f (opX op) nn = op := by
  obtain rfl : op.extractLsb' 12 4 = f := BitVec.eq_of_toNat_eq hf
  subst hn
  exact encodeXNN_fields op

/-- A word of known family and low nibble is format `XYN` of its own fields. -/
theorem encodeXYN_of_family {op : Opcode} {f n : BitVec 4} (hf : opFamily op = f.toNat) (hn : (opN op).toNat = n.toNat) :
    encodeXYN f (opX op) (opY op) n = op := by
  obtain rfl : op.extractLsb' 12 4 = f := BitVec.eq_of_toNat_eq hf
  obtain rfl : opN op = n := BitVec.eq_of_toNat_eq hn
  exact encodeXYN_fields op

theorem encode_of_decodeFamily8 {op : Opcode} {i : Instr} (hf : opFamily op = 8) (h : decodeFamily8 op = some i) :
    encode i = op := by
  unfold decodeFamily8 at h
  split at h
  case h_10 => cases h
  all_goals
    next hn =>
    obtain rfl := Option.some.inj h
    exact encodeXYN_of_family hf hn

theorem encode_of_decodeFamilyE {op : Opcode} {i : Instr} (hf : opFamily op = 14) (h : decodeFamilyE op = some i) :
    encode i = op := by
  unfold decodeFamilyE at h
  repeat
    split at h
    next hn =>
      obtain rfl := Option.some.inj h
      exact encodeXNN_of_family hf hn
  cases h

theorem encode_of_decodeFamilyF {op : Opcode} {i : Instr} (hf : opFamily op = 15) (h : decodeFamilyF op = some i) :
    encode i = op := by
  unfold decodeFamilyF at h
  repeat
    split at h
    next hn =>
      obtain rfl := Option.some.inj h
      exact encodeXNN_of_family hf hn
  cases h

theorem encode_of_decodeFamily {op : Opcode} {i : Instr} (h : decodeFamily op = some i) : encode i = op := by
  unfold decodeFamily at h
  split at h
  case h_8 hf => exact encode_of_decodeFamily8 hf h
  case h_14 hf => exact encode_of_decodeFamilyE hf h
  case h_15 hf => exact encode_of_decodeFamilyF hf h
  case h_16 => cases h
  case h_5 hf | h_9 hf =>
    obtain ⟨hn, hi⟩ := Option.ite_none_right_eq_some.mp h
    obtain rfl := Option.some.inj hi
    exact encodeXYN_of_family hf (congrArg BitVec.toNat hn)
  case h_1 hf | h_2 hf | h_10 hf | h_11 hf =>
    obtain rfl := Option.some.inj h
    exact encodeNNN_of_family hf
  case h_13 hf =>
    obtain rfl := Option.some.inj h
    exact encodeXYN_of_family hf rfl
  all_goals
    next hf =>
    obtain rfl := Option.some.inj h
    exact encodeXNN_of_family hf rfl

/-- A word that decodes to an instruction is that instruction's word. -/
theorem encode_of_decodeOpcode {op : Opcode} {i : Instr} (h : decodeOpcode op = some i) : encode i = op := by
  unfold decodeOpcode at h
  split at h
  · next hop => obtain rfl := Option.some.inj h; exact hop.symm
  · split at h
    · next hop => obtain rfl := Option.some.inj h; exact hop.symm
    · exact encode_of_decodeFamily h

/-- The two bytes of a word (spec R44). -/
theorem opcodeHi_opcodeOfBytes (hi lo : Byte) : opcodeHi (opcodeOfBytes hi lo) = hi := extract_append_high hi lo

theorem opcodeLo_opcodeOfBytes (hi lo : Byte) : opcodeLo (opcodeOfBytes hi lo) = lo :=
  (extract_append_low hi lo 0 (by decide)).trans (extract_self lo)

/-- Settles O2: bytes that decode begin with two that make the word of the instruction, and a word has only those two bytes. -/
theorem encodeOfDecode : Obligations.EncodeOfDecode := by
  intro bytes i rest h
  match bytes, h with
  | hi :: lo :: tail, h =>
    rw [decodeBytes] at h
    split at h
    · next j hj =>
      obtain ⟨rfl, rfl⟩ := Decoded.instr.inj h
      simp [encodeBytes, encode_of_decodeOpcode hj, opcodeHi_opcodeOfBytes, opcodeLo_opcodeOfBytes]
    · cases h

/-! The opcode map. -/

/-- The word of every instruction selects the instruction's own row of the opcode map. -/
theorem row_selects_encode (i : Instr) : Laws.TableRow.Statement i :=
  match i with
  | .clearScreen => Laws.TableRow.clearScreen
  | .ret => Laws.TableRow.ret
  | .jump nnn => Laws.TableRow.jump nnn
  | .call nnn => Laws.TableRow.call nnn
  | .skipEqImm x nn => Laws.TableRow.skipEqImm x nn
  | .skipNeImm x nn => Laws.TableRow.skipNeImm x nn
  | .skipEqReg x y => Laws.TableRow.skipEqReg x y
  | .loadImm x nn => Laws.TableRow.loadImm x nn
  | .addImm x nn => Laws.TableRow.addImm x nn
  | .copy x y => Laws.TableRow.copy x y
  | .orReg x y => Laws.TableRow.orReg x y
  | .andReg x y => Laws.TableRow.andReg x y
  | .xorReg x y => Laws.TableRow.xorReg x y
  | .addCarry x y => Laws.TableRow.addCarry x y
  | .subBorrow x y => Laws.TableRow.subBorrow x y
  | .shiftRight x y => Laws.TableRow.shiftRight x y
  | .reverseSub x y => Laws.TableRow.reverseSub x y
  | .shiftLeft x y => Laws.TableRow.shiftLeft x y
  | .skipNeReg x y => Laws.TableRow.skipNeReg x y
  | .loadIndex nnn => Laws.TableRow.loadIndex nnn
  | .jumpV0 nnn => Laws.TableRow.jumpV0 nnn
  | .random x nn => Laws.TableRow.random x nn
  | .draw x y n => Laws.TableRow.draw x y n
  | .skipKey x => Laws.TableRow.skipKey x
  | .skipNotKey x => Laws.TableRow.skipNotKey x
  | .loadDelay x => Laws.TableRow.loadDelay x
  | .waitKey x => Laws.TableRow.waitKey x
  | .storeDelay x => Laws.TableRow.storeDelay x
  | .storeSound x => Laws.TableRow.storeSound x
  | .addIndex x => Laws.TableRow.addIndex x
  | .loadSpriteAddr x => Laws.TableRow.loadSpriteAddr x
  | .storeBcd x => Laws.TableRow.storeBcd x
  | .storeRegs x => Laws.TableRow.storeRegs x
  | .loadRegs x => Laws.TableRow.loadRegs x

/-- A slice of a word that a row's mask covers is the slice of the row's pattern (spec R65). -/
theorem extract_eq_of_selects {r : OpcodeRow} {op : Opcode} (h : r.selects op = true) (start len : Nat)
    (hmask : r.mask.extractLsb' start len = BitVec.allOnes len) :
    op.extractLsb' start len = r.pattern.extractLsb' start len := by
  have hp : op &&& r.mask = r.pattern := beq_iff_eq.mp h
  rw [← hp, BitVec.extractLsb'_and, hmask, BitVec.and_allOnes]

/-- Two rows that select one word have patterns that agree where both masks are set. -/
theorem patterns_agree_of_selects {r r' : OpcodeRow} {op : Opcode} (h : r.selects op = true) (h' : r'.selects op = true) :
    r.pattern &&& r'.mask = r'.pattern &&& r.mask := by
  have hp : op &&& r.mask = r.pattern := beq_iff_eq.mp h
  have hp' : op &&& r'.mask = r'.pattern := beq_iff_eq.mp h'
  rw [← hp, ← hp', BitVec.and_assoc, BitVec.and_assoc, BitVec.and_comm r.mask]

/-- Settles O4: two rows that select one word agree on the bits both fix, and no two of the 34 rows do. -/
theorem opcodeRowsAreDisjoint : Obligations.OpcodeRowsAreDisjoint := by
  have key : ∀ r ∈ opcodeTable, ∀ r' ∈ opcodeTable, r.pattern &&& r'.mask = r'.pattern &&& r.mask → r = r' := by decide
  exact ⟨rfl, by decide, fun op r r' hr hr' h h' => key r hr r' hr' (patterns_agree_of_selects h h')⟩

/-- Settles O5: each listed word is decoded. -/
theorem listedWordsDecode : Obligations.ListedWordsDecode := by
  unfold Obligations.ListedWordsDecode
  decide

/-- Where a row fixes the family, a word that selects it has the family of its pattern. -/
theorem opFamily_of_selects {r : OpcodeRow} {op : Opcode} (h : r.selects op = true)
    (hmask : r.mask.extractLsb' 12 4 = 0xF#4) : opFamily op = opFamily r.pattern :=
  congrArg BitVec.toNat (extract_eq_of_selects h 12 4 hmask)

/-! The words the decoder accepts, by the part of the word that decides (spec R63). -/

/-- The families whose remaining bits are all operands. -/
def operandFamilies : List Nat := [1, 2, 3, 4, 6, 7, 10, 11, 12, 13]

/-- Family and low nibble, where the low nibble selects the instruction. -/
def nibbleSelectors : List (Nat × BitVec 4) :=
  [(5, 0x0), (8, 0x0), (8, 0x1), (8, 0x2), (8, 0x3), (8, 0x4), (8, 0x5), (8, 0x6), (8, 0x7), (8, 0xE), (9, 0x0)]

/-- Family and low byte, where the low byte selects the instruction. -/
def byteSelectors : List (Nat × Byte) :=
  [(14, 0x9E), (14, 0xA1), (15, 0x07), (15, 0x0A), (15, 0x15), (15, 0x18), (15, 0x1E), (15, 0x29), (15, 0x33), (15, 0x55),
   (15, 0x65)]

theorem decodeOpcode_isSome_of_family {op : Opcode} (h : opFamily op ∈ operandFamilies) :
    (decodeOpcode op).isSome = true := by
  have hf : opFamily op ≠ 0 := fun e => by simp [e, operandFamilies] at h
  rw [decodeOpcode_of_family hf, decodeFamily]
  simp only [operandFamilies, List.mem_cons, List.not_mem_nil, or_false] at h
  rcases h with h | h | h | h | h | h | h | h | h | h <;> simp [h]

theorem decodeOpcode_isSome_of_nibble {op : Opcode} (h : (opFamily op, opN op) ∈ nibbleSelectors) :
    (decodeOpcode op).isSome = true := by
  have hf : opFamily op ≠ 0 := fun e => by simp [e, nibbleSelectors] at h
  rw [decodeOpcode_of_family hf, decodeFamily]
  simp only [nibbleSelectors, List.mem_cons, List.not_mem_nil, or_false, Prod.mk.injEq] at h
  rcases h with h | h | h | h | h | h | h | h | h | h | h <;> simp [h, decodeFamily8]

theorem decodeOpcode_isSome_of_byte {op : Opcode} (h : (opFamily op, opNN op) ∈ byteSelectors) :
    (decodeOpcode op).isSome = true := by
  have hf : opFamily op ≠ 0 := fun e => by simp [e, byteSelectors] at h
  rw [decodeOpcode_of_family hf, decodeFamily]
  simp only [byteSelectors, List.mem_cons, List.not_mem_nil, or_false, Prod.mk.injEq] at h
  rcases h with h | h | h | h | h | h | h | h | h | h | h <;> simp [h, decodeFamilyE, decodeFamilyF]

/-- A word that some row selects decodes to an instruction: the bits the row's mask fixes are those that decide. -/
theorem decodeOpcode_isSome_of_selects {op : Opcode} {r : OpcodeRow} (hr : r ∈ opcodeTable) (h : r.selects op = true) :
    (decodeOpcode op).isSome = true := by
  have hrows : ∀ r ∈ opcodeTable,
      (r.mask = 0xFFFF ∧ (decodeOpcode r.pattern).isSome = true) ∨
      (r.mask = 0xF000 ∧ opFamily r.pattern ∈ operandFamilies) ∨
      (r.mask = 0xF00F ∧ (opFamily r.pattern, opN r.pattern) ∈ nibbleSelectors) ∨
      (r.mask = 0xF0FF ∧ (opFamily r.pattern, opNN r.pattern) ∈ byteSelectors) := by
    decide
  rcases hrows r hr with ⟨hm, hd⟩ | ⟨hm, hd⟩ | ⟨hm, hd⟩ | ⟨hm, hd⟩
  · have hop : op = r.pattern := by
      rw [← extract_self op, ← extract_self r.pattern]
      exact extract_eq_of_selects h 0 16 (by rw [hm]; decide)
    rwa [hop]
  · rw [← opFamily_of_selects h (by rw [hm]; decide)] at hd
    exact decodeOpcode_isSome_of_family hd
  · have hn : opN op = opN r.pattern := extract_eq_of_selects h 0 4 (by rw [hm]; decide)
    rw [← opFamily_of_selects h (by rw [hm]; decide), ← hn] at hd
    exact decodeOpcode_isSome_of_nibble hd
  · have hn : opNN op = opNN r.pattern := extract_eq_of_selects h 0 8 (by rw [hm]; decide)
    rw [← opFamily_of_selects h (by rw [hm]; decide), ← hn] at hd
    exact decodeOpcode_isSome_of_byte hd

/-- Settles O3: a word that decodes is the word of its instruction, which selects that instruction's row; and a word that some
row selects decodes. -/
theorem decoderAcceptsExactlyTheOpcodeMap : Obligations.DecoderAcceptsExactlyTheOpcodeMap := by
  intro op
  have hrow : ∀ i, decodeOpcode op = some i → i.row ∈ opcodeTable ∧ i.row.selects op = true := by
    intro i hi
    rw [← encode_of_decodeOpcode hi]
    exact row_selects_encode i
  refine ⟨Bool.eq_iff_iff.mpr ⟨fun h => ?_, fun h => ?_⟩, hrow⟩
  · obtain ⟨i, hi⟩ := Option.isSome_iff_exists.mp h
    exact List.any_eq_true.mpr ⟨i.row, hrow i hi⟩
  · obtain ⟨r, hr, hs⟩ := List.any_eq_true.mp h
    exact decodeOpcode_isSome_of_selects hr hs

end Sys2Proof
end

section
/-! Frames of the shared operations: what each update of the state or of the environment leaves unchanged. -/

namespace Sys2Proof

open Machine

/-- Frames compose along a sequence of updates. -/
theorem UnchangedBut.trans {ps : List Part} {s t u : State} (h : UnchangedBut ps s t) (h' : UnchangedBut ps t u) :
    UnchangedBut ps s u := by
  intro p hp
  have hst := h p hp
  have htu := h' p hp
  cases p
  case stack => exact ⟨htu.1.trans hst.1, htu.2.trans hst.2⟩
  all_goals exact Eq.trans htu hst

/-- Frame of a fatal condition (spec R240). -/
theorem raiseFatal_unchangedBut (kind : FatalKind) (s : State) : UnchangedBut fatalParts s (raiseFatal kind s) := by
  intro p hp
  cases p
  case fatal | paused => simp [fatalParts] at hp
  case stack => exact ⟨rfl, rfl⟩
  all_goals rfl

/-- Frame of the suspension of `wait-for-key` (spec R176). -/
theorem beginWait_unchangedBut (s : State) (x : Reg) : UnchangedBut [.paused, .wait] s (s.beginWait x) := by
  intro p hp
  cases p
  case paused | wait => simp at hp
  case stack => exact ⟨rfl, rfl⟩
  all_goals rfl

/-- Frame of the progress of a `RunCycle`. -/
theorem setCycle_unchangedBut (s : State) (c : Option Nat) : UnchangedBut [.cycle] s (s.setCycle c) := by
  intro p hp
  cases p
  case cycle => simp at hp
  case stack => exact ⟨rfl, rfl⟩
  all_goals rfl

/-- Frame of a transfer of control that pushes or pops (spec R101, R103). -/
theorem setStack_unchangedBut (s : State) (a : Addr) (slots : Vector Addr 16) (d : Fin 17) :
    UnchangedBut [.pc, .stack] s { s with pc := a, stack := slots, depth := d } := by
  intro p hp
  cases p
  case pc | stack => simp at hp
  all_goals rfl

/-- Frame of a result and a flag (spec R130). -/
theorem setRegThenFlag_unchangedBut (s : State) (x : Reg) (v : Byte) (f : Bool) :
    UnchangedBut [.reg x, .reg VF] s (s.setRegThenFlag x v f) :=
  ((setReg_unchangedBut s x v).mono (by simp)).trans ((setReg_unchangedBut _ VF _).mono (by simp))

/-- Frame of a block of registers (spec R156). -/
theorem setV_unchangedBut {s : State} {rs : List Reg} {v : Vector Byte 16} (h : ∀ r ∉ rs, v[r.val] = s.reg r) :
    UnchangedBut (rs.map Part.reg) s { s with V := v } := by
  intro p hp
  cases p
  case reg r => exact h r fun hr => hp (List.mem_map_of_mem hr)
  case stack => exact ⟨rfl, rfl⟩
  all_goals rfl

/-- A block of bytes holds the bytes of its addresses, and no other part. -/
@[simp] theorem mem_byteParts {p : Part} {base count : Nat} :
    p ∈ byteParts base count ↔ ∃ a, base ≤ a ∧ a < base + count ∧ p = .byte a := by
  simp only [byteParts, List.mem_map, List.mem_range]
  constructor
  · rintro ⟨k, hk, rfl⟩
    exact ⟨base + k, by omega, by omega, rfl⟩
  · rintro ⟨a, hlo, hhi, rfl⟩
    exact ⟨a - base, by omega, congrArg Part.byte (by omega)⟩

/-- Frame of a block written to memory. -/
theorem writeImage_unchangedBut (s : State) (base : Nat) (bs : List Byte) :
    UnchangedBut (byteParts base bs.length) s (s.setMem (writeImage s.mem base bs)) := by
  intro p hp
  cases p
  case byte a =>
    have hout : ¬(base ≤ a ∧ a < base + bs.length) := by simpa using hp
    exact (read_writeImage _ _ _ a).trans (dif_neg hout)
  case stack => exact ⟨rfl, rfl⟩
  all_goals rfl

/-- The parts of the outside world. -/
def envParts : List Part := [.hostOps, .randomBytes, .keyReplies, .toggleReplies, .freeCount, .trace]

/-- A change of the outside world alone changes no more than the parts of it that differ. -/
theorem setEnv_unchangedBut {ps : List Part} {s : State} {e : Env} (h : ∀ p ∈ envParts, p ∉ ps → p.same s (s.setEnv e)) :
    UnchangedBut ps s (s.setEnv e) := by
  intro p hp
  cases p
  case hostOps | randomBytes | keyReplies | toggleReplies | freeCount | trace => exact h _ (by decide) hp
  case stack => exact ⟨rfl, rfl⟩
  all_goals rfl

end Sys2Proof

namespace Sys2Proof.Machine

variable (e : Env)

/-! The reply queues a request does not take from. -/

@[simp] theorem Env.answer_randomBytes (r : HostReply) : (e.answer r).randomBytes = e.randomBytes := rfl
@[simp] theorem Env.answer_keyReplies (r : HostReply) : (e.answer r).keyReplies = e.keyReplies := rfl
@[simp] theorem Env.answer_toggleReplies (r : HostReply) : (e.answer r).toggleReplies = e.toggleReplies := rfl
@[simp] theorem Env.answer_freeCount (r : HostReply) : (e.answer r).freeCount = e.freeCount := rfl

@[simp] theorem Env.askRandom_keyReplies : e.askRandom.2.keyReplies = e.keyReplies := by
  unfold Env.askRandom Env.takeRandom; split <;> rfl

@[simp] theorem Env.askRandom_toggleReplies : e.askRandom.2.toggleReplies = e.toggleReplies := by
  unfold Env.askRandom Env.takeRandom; split <;> rfl

/-- A settled random byte leaves the free values alone. -/
theorem Env.askRandom_settled_freeCount {b : Byte} {bs : List Byte} (h : e.randomBytes = b :: bs) :
    e.askRandom.2.freeCount = e.freeCount := by
  unfold Env.askRandom Env.takeRandom; simp [h]

@[simp] theorem Env.askKey_randomBytes (k : Key) : (e.askKey k).2.randomBytes = e.randomBytes := by
  unfold Env.askKey Env.takeKeyReply; split <;> rfl

@[simp] theorem Env.askKey_toggleReplies (k : Key) : (e.askKey k).2.toggleReplies = e.toggleReplies := by
  unfold Env.askKey Env.takeKeyReply; split <;> rfl

@[simp] theorem Env.askToggle_randomBytes (p : Pixel) : (e.askToggle p).2.randomBytes = e.randomBytes := by
  unfold Env.askToggle Env.takeToggleReply; split <;> rfl

@[simp] theorem Env.askToggle_keyReplies (p : Pixel) : (e.askToggle p).2.keyReplies = e.keyReplies := by
  unfold Env.askToggle Env.takeToggleReply; split <;> rfl

@[simp] theorem Env.askToggles_randomBytes (ps : List Pixel) : (e.askToggles ps).2.randomBytes = e.randomBytes := by
  induction ps generalizing e with
  | nil => rfl
  | cons p ps ih => simp [Env.askToggles, ih]

@[simp] theorem Env.askToggles_keyReplies (ps : List Pixel) : (e.askToggles ps).2.keyReplies = e.keyReplies := by
  induction ps generalizing e with
  | nil => rfl
  | cons p ps ih => simp [Env.askToggles, ih]

/-- Settled toggle replies leave the free values alone. -/
theorem Env.askToggles_settled_freeCount (ps : List Pixel) {bs rest : List Bool} (hl : bs.length = ps.length)
    (h : e.toggleReplies = bs ++ rest) : (e.askToggles ps).2.freeCount = e.freeCount := by
  induction ps generalizing e bs with
  | nil => rfl
  | cons p ps ih =>
    cases bs with
    | nil => cases hl
    | cons b bs =>
      have hreply : (e.askToggle p).2.toggleReplies = bs ++ rest ∧ (e.askToggle p).2.freeCount = e.freeCount := by
        unfold Env.askToggle Env.takeToggleReply; simp [h]
      exact (ih _ (Nat.succ.inj hl) hreply.1).trans hreply.2

end Sys2Proof.Machine

namespace Sys2Proof

open Machine

/-- Frame of a random draw (spec R212). -/
theorem askRandom_unchangedBut (s : State) :
    UnchangedBut [.randomBytes, .freeCount, .trace] s (s.setEnv s.env.askRandom.2) :=
  setEnv_unchangedBut (by simp [envParts, Part.same])

/-- Frame of a key query, which is made only for a code that names a key (spec R174, R209). -/
theorem askKeyCode_unchangedBut (s : State) (c : Option Key) :
    UnchangedBut [.keyReplies, .freeCount, .trace] s (s.setEnv (s.env.askKeyCode c).2) := by
  cases c with
  | none => exact .refl _ s
  | some k => exact setEnv_unchangedBut (by simp [envParts, Part.same, Env.askKeyCode])

/-- Frame of the toggles of a sprite (spec R206). -/
theorem askToggles_unchangedBut (s : State) (ps : List Pixel) :
    UnchangedBut [.toggleReplies, .freeCount, .trace] s (s.setEnv (s.env.askToggles ps).2) :=
  setEnv_unchangedBut (by simp [envParts, Part.same])

end Sys2Proof
end

section
/-! The call stack (spec 41_control_transfer.md): `call`, `return` and the indexed jump. -/

namespace Sys2Proof

open Machine

/-- The indexed target is the exact sum: it never reaches 65536 (spec R104). -/
@[simp] theorem indexedTarget_toNat (nnn : BitVec 12) (v : Byte) : (indexedTarget nnn v).toNat = nnn.toNat + v.toNat := by
  have hn := nnn.isLt
  have hv := v.isLt
  exact (BitVec.toNat_ofNat _ 16).trans (Nat.mod_eq_of_lt (by omega))

/-- Settles O32: the handler assigns the sum to `pc`, and that assignment touches no other part. -/
theorem indexedJumpAddsV0 : Obligations.IndexedJumpAddsV0 :=
  fun nnn s => ⟨_, rfl, indexedTarget_toNat nnn _, setPc_unchangedBut s _⟩

/-- What a `call` that finds a free slot leaves (spec R103). -/
def afterCall (s : State) (nnn : BitVec 12) (h : s.depth.val < 16) : State :=
  { s with pc := addrOfImm nnn, stack := s.stack.set s.depth.val s.pc h, depth := ⟨s.depth.val + 1, by omega⟩ }

/-- What a `return` that finds an entry leaves (spec R101). -/
def afterRet (s : State) (h : 0 < s.depth.val) : State :=
  { s with pc := s.stack[s.depth.val - 1]'(by omega), depth := ⟨s.depth.val - 1, by omega⟩ }

theorem exec_call {s : State} (h : s.depth.val < 16) (nnn : BitVec 12) :
    exec (.call nnn) s = .next (afterCall s nnn h) := by
  simp [exec, execCall, State.push, h, afterCall, State.setPc]

theorem exec_call_full {s : State} (h : s.depth.val = 16) (nnn : BitVec 12) :
    exec (.call nnn) s = .next (raiseFatal .stackOverflow s) := by
  simp [exec, execCall, push_none.mpr h]

theorem exec_ret {s : State} (h : 0 < s.depth.val) : exec .ret s = .next (afterRet s h) := by
  simp [exec, execRet, State.pop, h, afterRet, State.setPc]

theorem exec_ret_empty {s : State} (h : s.depth.val = 0) : exec .ret s = .next (raiseFatal .stackUnderflow s) := by
  simp [exec, execRet, pop_none.mpr h]

theorem afterCall_unchangedBut (s : State) (nnn : BitVec 12) (h : s.depth.val < 16) :
    UnchangedBut [.pc, .stack] s (afterCall s nnn h) := setStack_unchangedBut _ _ _ _

theorem afterRet_unchangedBut (s : State) (h : 0 < s.depth.val) : UnchangedBut [.pc, .stack] s (afterRet s h) :=
  setStack_unchangedBut _ _ _ _

theorem sp_afterCall (s : State) (nnn : BitVec 12) (h : s.depth.val < 16) : (afterCall s nnn h).sp = s.sp + 1 := by
  simp [State.sp, afterCall]

/-- Settles O33: with a free slot the handler writes the slot above the top and jumps; with none it raises the condition. -/
theorem callPushesTheReturnAddress : Obligations.CallPushesTheReturnAddress := by
  intro nnn s
  refine ⟨fun hsp => ?_, fun hsp => ?_⟩ <;> unfold State.sp at hsp
  · have h : s.depth.val < 16 := by omega
    refine ⟨_, exec_call h nnn, addrOfImm_toNat nnn, sp_afterCall s nnn h, ?_, fun k hk => ?_, afterCall_unchangedBut s nnn h⟩
    · simp [afterCall, h]
    · simp [afterCall, Vector.getElem?_set_ne, hk.symm]
  · exact ⟨_, exec_call_full (by omega) nnn, rfl, rfl, raiseFatal_unchangedBut _ s⟩

/-- Settles O34: with an entry on the stack the handler reads the top slot into `pc` and keeps all slots; with none it raises
the condition. -/
theorem returnPopsTheReturnAddress : Obligations.ReturnPopsTheReturnAddress := by
  intro s
  refine ⟨fun hsp => ?_, fun hsp => ?_⟩ <;> unfold State.sp at hsp
  · have h : 0 < s.depth.val := by omega
    refine ⟨_, exec_ret h, ?_, ?_, rfl, afterRet_unchangedBut s h⟩
    · simp [afterRet, Vector.getElem?_eq_getElem (show s.depth.val - 1 < 16 by omega)]
    · simp only [State.sp, afterRet]
      omega
  · exact ⟨_, exec_ret_empty (by omega), rfl, rfl, raiseFatal_unchangedBut _ s⟩

/-- Settles O35: the return pops the one slot the call wrote, which holds the `pc` active at the call. -/
theorem returnResumesAfterTheCall : Obligations.ReturnResumesAfterTheCall := by
  intro nnn s t u hsp ht hdepth hslot
  unfold State.sp at hsp
  have h : s.depth.val < 16 := by omega
  obtain rfl := Host.Outcome.next.inj ((exec_call h nnn).symm.trans ht)
  have hu : u.depth.val = s.depth.val + 1 := by rw [hdepth]; rfl
  have hpos : 0 < u.depth.val := by omega
  refine ⟨_, exec_ret hpos, ?_, Fin.ext (by simp [afterRet, hu])⟩
  have hpc : u.stack[s.depth.val]? = some s.pc := by simpa [afterCall, h] using hslot
  have htop : u.depth.val - 1 = s.depth.val := by omega
  simpa [afterRet, htop, Vector.getElem?_eq_getElem h] using hpc

/-- As many calls as there are free slots all succeed, each one entry deeper, and record no condition. -/
theorem runCalls_of_room (targets : List (BitVec 12)) {s : State} (h : s.depth.val + targets.length ≤ 16) :
    ∃ t, runCalls targets s = .next t ∧ t.depth.val = s.depth.val + targets.length ∧ t.fatal = s.fatal := by
  induction targets generalizing s with
  | nil => exact ⟨s, rfl, rfl, rfl⟩
  | cons a as ih =>
    simp only [List.length_cons] at h
    have hroom : s.depth.val < 16 := by omega
    have hdepth : (afterCall s a hroom).depth.val = s.depth.val + 1 := rfl
    obtain ⟨t, hrun, hd, hf⟩ := ih (s := afterCall s a hroom) (by omega)
    refine ⟨t, by rw [runCalls, exec_call hroom, andThen_next, hrun], ?_, hf⟩
    rw [hd, hdepth, List.length_cons]
    omega

/-- Calls in two parts. -/
theorem runCalls_append (as bs : List (BitVec 12)) (s : State) :
    runCalls (as ++ bs) s = andThen (runCalls as s) (runCalls bs) := by
  induction as generalizing s with
  | nil => rfl
  | cons a as ih =>
    rw [List.cons_append, runCalls, runCalls]
    cases exec (.call a) s with
    | next t => exact ih t
    | fault r => rfl
    | refused r => rfl

/-- Settles O36: an empty stack has room for sixteen calls; the seventeenth finds it full. -/
theorem sixteenCallsThenOverflow : Obligations.SixteenCallsThenOverflow := by
  intro targets s hsp hfatal
  unfold State.sp at hsp
  refine ⟨fun hlen => ?_, fun hlen => ?_⟩
  · obtain ⟨t, hrun, hd, hf⟩ := runCalls_of_room targets (s := s) (by omega)
    exact ⟨t, hrun, by unfold State.sp; omega, hf.trans hfatal⟩
  · have hinit : targets.dropLast.length = 16 := by simp [hlen]
    obtain ⟨t, hrun, hd, -⟩ := runCalls_of_room targets.dropLast (s := s) (by omega)
    have hne : targets ≠ [] := by rintro rfl; cases hlen
    have hfull : exec (.call (targets.getLast hne)) t = .next (raiseFatal .stackOverflow t) := exec_call_full (by omega) _
    refine ⟨raiseFatal .stackOverflow t, ?_, ?_, rfl⟩
    · rw [← List.dropLast_append_getLast hne, runCalls_append, hrun, andThen_next, runCalls, hfull]
      rfl
    · simp only [State.sp, raiseFatal_depth]
      omega

end Sys2Proof
end

section
/-! Register operations (spec 42_immediate_ops.md, 43_register_ops.md): a random byte, copies and logic, and the operations that
write the flag last. -/

namespace Sys2Proof

open Machine

/-- Frame of `random`: the draw, and then the register. -/
theorem random_unchangedBut (s : State) (x : Reg) (v : Byte) :
    UnchangedBut [.reg x, .randomBytes, .freeCount, .trace] s ((s.setEnv s.env.askRandom.2).setReg x v) :=
  ((askRandom_unchangedBut s).mono (by simp)).trans ((setReg_unchangedBut _ x v).mono (by simp))

/-- Settles O40: the byte is the reply of the one request made, which is a settled byte where there is one. -/
theorem randomAndsOneDraw : Obligations.RandomAndsOneDraw := by
  intro x nn s
  refine ⟨s.env.askRandom.1, _, rfl, State.reg_setReg_same .., fun b bs hb => ?_, ?_, random_unchangedBut s x _⟩
  · obtain ⟨hreply, hrest⟩ := Env.askRandom_settled s.env hb
    exact ⟨hreply, hrest, Env.askRandom_settled_freeCount s.env hb⟩
  · simp

/-- Settles O41: each handler assigns its bitwise result to `Vx`, and that assignment touches no other part. -/
theorem copyAndLogic : Obligations.CopyAndLogic := by
  intro x y s
  refine ⟨⟨_, rfl, State.reg_setReg_same .., setReg_unchangedBut _ _ _⟩, ⟨_, rfl, setReg_unchangedBut _ _ _, fun b _ => ?_⟩,
    ⟨_, rfl, setReg_unchangedBut _ _ _, fun b _ => ?_⟩, ⟨_, rfl, setReg_unchangedBut _ _ _, fun b _ => ?_⟩⟩
  · rw [State.reg_setReg_same, BitVec.getLsbD_or]
  · rw [State.reg_setReg_same, BitVec.getLsbD_and]
  · rw [State.reg_setReg_same, BitVec.getLsbD_xor]

/-- An instruction that writes a result and then the flag meets its rule: the flag is its condition, and the result stands where
it was not overwritten (spec R130, decisions D5, D6). -/
theorem exec_setRegThenFlag {i : Instr} {s : State} {x : Reg} {v : Byte} {flag : Bool} {cond : Prop} [Decidable cond]
    {result : Byte → Prop} (hexec : exec i s = .next (s.setRegThenFlag x v flag)) (hflag : flag = true ↔ cond)
    (hresult : result v) :
    ∃ t, exec i s = .next t ∧ t.reg VF = (if cond then 1 else 0) ∧ (x ≠ VF → result (t.reg x)) ∧
      UnchangedBut [.reg x, .reg VF] s t := by
  refine ⟨_, hexec, ?_, fun hx => ?_, setRegThenFlag_unchangedBut s x v flag⟩
  · simp [flagByte, hflag]
  · rwa [State.reg_setRegThenFlag_dest s hx]

/-- The 8-bit difference is the difference of the values modulo 256 (spec R136). -/
theorem diffByte_toNat (a b : Byte) : ((diffByte a b).toNat : Int) = (a.toNat - b.toNat : Int) % 256 := by
  rw [diffByte, BitVec.toNat_ofInt]
  omega

/-- Settles O42: the result is the 8-bit sum and the flag the test of the exact sum. -/
theorem addWithCarry : Obligations.AddWithCarry := fun x y s =>
  exec_setRegThenFlag (result := fun v => v.toNat = ((s.reg x).toNat + (s.reg y).toNat) % 256) rfl
    (by simp [carryOut]) (sumByte_toNat _ _)

/-- Settles O43: the result is the 8-bit difference in either order and the flag the strict comparison. -/
theorem subtractBothOrders : Obligations.SubtractBothOrders := fun x y s =>
  ⟨exec_setRegThenFlag (result := fun v => (v.toNat : Int) = ((s.reg x).toNat - (s.reg y).toNat : Int) % 256) rfl
      (by simp [strictlyGreater]) (diffByte_toNat _ _),
    exec_setRegThenFlag (result := fun v => (v.toNat : Int) = ((s.reg y).toNat - (s.reg x).toNat : Int) % 256) rfl
      (by simp [strictlyGreater]) (diffByte_toNat _ _)⟩

theorem shiftedRight_eq (a : Byte) : shiftedRight a = a.ushiftRight 1 := by
  revert a; decide

theorem shiftedLeft_eq (a : Byte) : shiftedLeft a = a.shiftLeft 1 := by
  revert a; decide

theorem shiftedOutRight_iff (a : Byte) : shiftedOutRight a = true ↔ a.getLsbD 0 = true := by
  revert a; decide

theorem shiftedOutLeft_iff (a : Byte) : shiftedOutLeft a = true ↔ a.getLsbD 7 = true := by
  revert a; decide

/-- Settles O44: halving and doubling are the shifts by one bit, and the flag is the bit they move out. -/
theorem shiftsByOne : Obligations.ShiftsByOne := fun x _ s =>
  ⟨exec_setRegThenFlag (result := fun v => v = (s.reg x).ushiftRight 1) rfl (shiftedOutRight_iff _) (shiftedRight_eq _),
    exec_setRegThenFlag (result := fun v => v = (s.reg x).shiftLeft 1) rfl (shiftedOutLeft_iff _) (shiftedLeft_eq _)⟩

end Sys2Proof
end

section
/-! Index and memory (spec 44_index_memory.md): the index register, glyph addresses and the block transfers. -/

namespace Sys2Proof

open Machine

/-- Settles O46: the handler assigns the 16-bit sum to `I`, and that assignment touches no other part. -/
theorem addIndex : Obligations.AddIndex :=
  fun _ s => ⟨_, rfl, BitVec.toNat_ofNat _ 16, setI_unchangedBut s _⟩

/-! Glyphs. -/

/-- After reset the glyph of each digit stands at five times the digit (spec R41, R42). -/
theorem reset_glyph (d : Fin 16) (r : Fin 5) : State.reset.mem.read (5 * d.val + r.val) = glyphRow d.val r.val := by
  revert d r
  decide

theorem glyphAddr_toNat {v : Byte} (h : v.toNat ≤ 15) : (glyphAddr v).toNat = v.toNat * 5 :=
  (BitVec.toNat_ofNat _ 16).trans (Nat.mod_eq_of_lt (by unfold glyphStride; omega))

theorem exec_loadSpriteAddr {x : Reg} {s : State} (h : (s.reg x).toNat ≤ 15) :
    exec (.loadSpriteAddr x) s = .next (s.setI (glyphAddr (s.reg x))) := if_neg (Nat.not_lt.mpr h)

theorem exec_loadSpriteAddr_invalid {x : Reg} {s : State} (h : 15 < (s.reg x).toNat) :
    exec (.loadSpriteAddr x) s = .next (raiseFatal .invalidDigit s) := if_pos h

/-- Settles O47: the whole byte is tested; a digit's address is the one its glyph has after reset. -/
theorem spriteAddressOfADigit : Obligations.SpriteAddressOfADigit := by
  intro x s
  refine ⟨fun h => ?_, fun h => ⟨_, exec_loadSpriteAddr_invalid h, rfl, rfl, raiseFatal_unchangedBut _ s⟩⟩
  refine ⟨_, exec_loadSpriteAddr h, glyphAddr_toNat h, fun r => ?_, setI_unchangedBut s _⟩
  rw [State.setI_I, glyphAddr_toNat h, Nat.mul_comm]
  exact reset_glyph ⟨(s.reg x).toNat, by omega⟩ r

/-- Above the glyphs reset memory is 0. -/
theorem reset_mem_read_above {a : Nat} (h : 0x050 ≤ a) : State.reset.mem.read a = 0 := by
  have hlen : glyphs.length ≤ a := h
  simp [State.reset, Memory.read, resetByte, List.getElem?_eq_none hlen]

/-- Settles O22: the glyph bytes by digit and row, zeros above them, and the value of each field. -/
theorem resetValues : Obligations.ResetValues := by
  refine ⟨reset_glyph, fun _ => reset_mem_read_above, by decide, by decide, rfl, rfl, rfl, by decide, rfl, rfl, rfl, rfl, rfl⟩

/-! The block transfers, inside memory and outside. -/

theorem length_bcdDigits (v : Byte) : (bcdDigits v).length = 3 := rfl

theorem length_map_regsUpTo (x : Reg) (s : State) : ((regsUpTo x).map s.reg).length = x.val + 1 := by
  rw [List.length_map, length_regsUpTo]

theorem exec_storeBcd {x : Reg} {s : State} (h : s.I.toNat + 2 ≤ 4095) :
    exec (.storeBcd x) s = .next (s.setMem (writeImage s.mem s.I.toNat (bcdDigits (s.reg x)))) :=
  (checkRange_in h _).trans (memWriteBlock_in (by rw [length_bcdDigits]; exact Nat.succ_le_succ h))

theorem exec_storeBcd_out {x : Reg} {s : State} (h : 4095 < s.I.toNat + 2) :
    exec (.storeBcd x) s = .next (raiseFatal .addressOutOfRange s) := checkRange_out h _

theorem exec_storeRegs {x : Reg} {s : State} (h : s.I.toNat + x.val ≤ 4095) :
    exec (.storeRegs x) s = .next (s.setMem (writeImage s.mem s.I.toNat ((regsUpTo x).map s.reg))) :=
  (checkRange_in h _).trans (memWriteBlock_in (by rw [length_map_regsUpTo]; exact Nat.succ_le_succ h))

theorem exec_storeRegs_out {x : Reg} {s : State} (h : 4095 < s.I.toNat + x.val) :
    exec (.storeRegs x) s = .next (raiseFatal .addressOutOfRange s) := checkRange_out h _

theorem exec_loadRegs {x : Reg} {s : State} (h : s.I.toNat + x.val ≤ 4095) :
    ∃ v, exec (.loadRegs x) s = .next { s with V := v } ∧
      ∀ r : Reg, v[r.val] = if r ≤ x then s.mem.read (s.I.toNat + r.val) else s.reg r := by
  have hin : ∀ r ∈ regsUpTo x, s.effAddr 0 + r.val < 4096 := fun r hr => by
    have hr := mem_regsUpTo.mp hr
    simp only [State.effAddr]
    omega
  obtain ⟨v, hv, hr⟩ := loadRegList_in (regsUpTo_nodup x) hin
  refine ⟨v, (checkRange_in h _).trans hv, fun r => (hr r).trans ?_⟩
  simp only [mem_regsUpTo, State.effAddr, Nat.add_zero, Fin.le_def]

theorem exec_loadRegs_out {x : Reg} {s : State} (h : 4095 < s.I.toNat + x.val) :
    exec (.loadRegs x) s = .next (raiseFatal .addressOutOfRange s) := checkRange_out h _

/-- Byte `k` of a stored block stands at `base + k`. -/
theorem read_writeImage_at (m : Memory) (base : Nat) {bs : List Byte} {k : Nat} (h : k < bs.length) :
    (writeImage m base bs).read (base + k) = bs[k] := by
  simp [read_writeImage, h]

/-- Frame of a store of three digits. -/
theorem storeBcd_unchangedBut (s : State) (v : Byte) :
    UnchangedBut (byteParts s.I.toNat 3) s (s.setMem (writeImage s.mem s.I.toNat (bcdDigits v))) :=
  writeImage_unchangedBut s s.I.toNat (bcdDigits v)

/-- Frame of a store of registers. -/
theorem storeRegs_unchangedBut (s : State) (x : Reg) :
    UnchangedBut (byteParts s.I.toNat (x.val + 1)) s (s.setMem (writeImage s.mem s.I.toNat ((regsUpTo x).map s.reg))) := by
  rw [← length_map_regsUpTo x s]
  exact writeImage_unchangedBut s _ _

/-- Frame of a load of registers. -/
theorem loadRegs_unchangedBut {s : State} {x : Reg} {v : Vector Byte 16}
    (h : ∀ r : Reg, v[r.val] = if r ≤ x then s.mem.read (s.I.toNat + r.val) else s.reg r) :
    UnchangedBut ((regsUpTo x).map .reg) s { s with V := v } :=
  setV_unchangedBut fun r hr => (h r).trans (if_neg fun hle => hr (mem_regsUpTo.mpr hle))

/-- Settles O48: the three digits are the quotients and remainders by 100 and 10, each small enough for a byte. -/
theorem storeBcdWritesThreeDigits : Obligations.StoreBcdWritesThreeDigits := by
  intro x s
  refine ⟨fun h => ?_, fun h => ⟨_, exec_storeBcd_out h, rfl, rfl, raiseFatal_unchangedBut _ s⟩⟩
  have hv := (s.reg x).isLt
  have hread (k : Nat) (hk : k < 3) :
      (writeImage s.mem s.I.toNat (bcdDigits (s.reg x))).read (s.I.toNat + k) = (bcdDigits (s.reg x))[k] :=
    read_writeImage_at _ _ hk
  have hsmall (n : Nat) (hn : n < 10) : (BitVec.ofNat 8 n).toNat = n :=
    (BitVec.toNat_ofNat n 8).trans (Nat.mod_eq_of_lt (by omega))
  refine ⟨_, (s.reg x).toNat / 100, (s.reg x).toNat / 10 % 10, (s.reg x).toNat % 10, exec_storeBcd h, by omega, by omega,
    by omega, by omega, ?_, ?_, ?_, storeBcd_unchangedBut s _⟩
  · exact (congrArg BitVec.toNat (hread 0 (by decide))).trans (hsmall _ (by omega))
  · exact (congrArg BitVec.toNat (hread 1 (by decide))).trans (hsmall _ (by omega))
  · exact (congrArg BitVec.toNat (hread 2 (by decide))).trans (hsmall _ (by omega))

/-- The byte of V[r] stands at `base + r` after the registers were stored. -/
theorem read_storedRegs (m : Memory) (base : Nat) (s : State) {x r : Reg} (h : r ≤ x) :
    (writeImage m base ((regsUpTo x).map s.reg)).read (base + r.val) = s.reg r := by
  have hlen : r.val < (regsUpTo x).length := by
    rw [length_regsUpTo]
    exact Nat.lt_succ_of_le h
  have hr : (regsUpTo x)[r.val] = r := Fin.ext (regsUpTo_getElem x r.val hlen)
  rw [read_writeImage_at m base (by rwa [List.length_map]), List.getElem_map, hr]

/-- Settles O49: inside memory the block of registers is written whole, and outside nothing is. -/
theorem storeRegistersWritesTheBlock : Obligations.StoreRegistersWritesTheBlock := fun x s =>
  ⟨fun h => ⟨_, exec_storeRegs h, fun _ hr => read_storedRegs s.mem _ s hr, storeRegs_unchangedBut s x⟩,
    fun h => ⟨_, exec_storeRegs_out h, rfl, rfl, raiseFatal_unchangedBut _ s⟩⟩

/-- Settles O50: inside memory exactly the registers up to `Vx` take their bytes, and outside none does. -/
theorem loadRegistersReadsTheBlock : Obligations.LoadRegistersReadsTheBlock := by
  intro x s
  refine ⟨fun h => ?_, fun h => ⟨_, exec_loadRegs_out h, rfl, rfl, raiseFatal_unchangedBut _ s⟩⟩
  obtain ⟨v, hexec, hv⟩ := exec_loadRegs h
  exact ⟨_, hexec, fun r hr => (hv r).trans (if_pos hr), loadRegs_unchangedBut hv⟩

/-- Settles O51: the load reads the addresses the store wrote, from the same `I`. -/
theorem storedRegistersLoadBack : Obligations.StoredRegistersLoadBack := by
  intro x s t u h ht hmem hI
  obtain rfl := Host.Outcome.next.inj ((exec_storeRegs h).symm.trans ht)
  rw [State.setMem_mem] at hmem
  rw [State.setMem_I] at hI
  obtain ⟨v, hexec, hv⟩ := exec_loadRegs (x := x) (s := u) (by rwa [hI])
  refine ⟨_, hexec, fun r => (hv r).trans ?_⟩
  by_cases hr : r ≤ x
  · rw [if_pos hr, if_pos hr, hmem, hI, read_storedRegs s.mem _ s hr]
  · rw [if_neg hr, if_neg hr]

/-- Storing a block leaves `pc`, so the next fetch reads the bytes as the store left them. -/
theorem fetchBytes_after_store {s : State} (h : s.pc.toNat ≤ 4094) (base : Nat) (bytes : List Byte) :
    fetchBytes (s.setMem (writeImage s.mem base bytes)) =
      .next ([s.pc.toNat, s.pc.toNat + 1].map (byteAfterStore s.mem base bytes)) := by
  have hpc : (s.setMem (writeImage s.mem base bytes)).pc.toNat ≤ 4094 := h
  rw [fetchBytes_in hpc]
  simp [read_writeImage_eq_byteAfterStore]

/-- Settles O30: both stores write one block of bytes, and the fetch reads memory as it then is. -/
theorem storeIsSeenByTheNextFetch : Obligations.StoreIsSeenByTheNextFetch := fun _ _ hpc =>
  ⟨fun h => ⟨_, exec_storeRegs h, fetchBytes_after_store hpc _ _⟩,
    fun h => ⟨_, exec_storeBcd h, fetchBytes_after_store hpc _ _⟩⟩

end Sys2Proof
end

section
/-! Keys (spec 45_timers_keys.md): the key skips, the key wait and the delivery of a key. -/

namespace Sys2Proof

open Machine

/-- Frame of a key skip: the query, and then the skip. -/
theorem skipKey_unchangedBut (s : State) (c : Option Key) (taken : Bool) :
    UnchangedBut [.pc, .keyReplies, .freeCount, .trace] s ((s.setEnv (s.env.askKeyCode c).2).skipIf taken) :=
  ((askKeyCode_unchangedBut s c).mono (by simp)).trans ((skipIf_unchangedBut _ taken).mono (by simp))

theorem keyOfByte_key {v : Byte} {k : Key} (h : v.toNat = k.val) : keyOfByte v = some k := by
  have hlt : v.toNat < 16 := h ▸ k.isLt
  rw [keyOfByte, dif_pos hlt]
  exact congrArg some (Fin.ext h)

theorem keyOfByte_none {v : Byte} (h : 15 < v.toNat) : keyOfByte v = none := dif_neg (by omega)

/-- Settles O53: both handlers make the same query, and skip on its reply and on the opposite of its reply. -/
theorem keySkipsAskOnce : Obligations.KeySkipsAskOnce := by
  intro x k s hk
  have hkey : s.env.askKeyCode (keyOfByte (s.reg x)) = s.env.askKey k := by rw [keyOfByte_key hk]; rfl
  refine ⟨(s.env.askKey k).1, _, _, rfl, rfl, ?_, ?_, fun b bs hb => ?_, ?_, ?_, skipKey_unchangedBut s _ _,
    skipKey_unchangedBut s _ _⟩
  · simp [hkey]
  · cases hheld : (s.env.askKey k).1 <;> simp [hkey, hheld]
  · obtain ⟨hreply, hrest⟩ := Env.askKey_settled s.env hb k
    simp [hkey, hreply, hrest]
  · simp [hkey]
  · simp [hkey]

/-- Settles O54: no code, no query; the key counts as not pressed, so the first skip is not taken and the second is. -/
theorem keySkipsOfNoKey : Obligations.KeySkipsOfNoKey := by
  intro x s h
  have hkey : s.env.askKeyCode (keyOfByte (s.reg x)) = (false, s.env) := by rw [keyOfByte_none h]; rfl
  have hskip : exec (.skipKey x) s = .next s := by simp [exec, execSkipKey, hkey, State.skipIf, State.setEnv]
  have hnot : exec (.skipNotKey x) s = .next s.advancePc := by
    simp [exec, execSkipNotKey, hkey, State.skipIf, State.setEnv]
  exact ⟨⟨s, hskip, .refl _ s⟩, ⟨_, hnot, rfl, setPc_unchangedBut s _⟩⟩

/-- What a key leaves where a wait is pending (spec R177). -/
def afterKey (s : State) (x : Reg) (k : Key) : State :=
  { s.setReg x (BitVec.ofNat 8 k.val) with wait := none, paused := false }

theorem keyPress_waiting {s : State} {x : Reg} (h : s.wait = some x) (k : Key) : keyPress k s = afterKey s x k := by
  simp only [keyPress, h, afterKey]

theorem keyPress_ignored {s : State} (h : s.wait = none) (k : Key) : keyPress k s = s := by
  simp only [keyPress, h]

theorem afterKey_reg_toNat (s : State) (x : Reg) (k : Key) : ((afterKey s x k).reg x).toNat = k.val := by
  have hreg : (afterKey s x k).reg x = BitVec.ofNat 8 k.val := State.reg_setReg_same s x _
  rw [hreg, BitVec.toNat_ofNat]
  exact Nat.mod_eq_of_lt (by omega)

/-- Frame of a delivered key. -/
theorem afterKey_unchangedBut (s : State) (x : Reg) (k : Key) : UnchangedBut [.reg x, .wait, .paused] s (afterKey s x k) := by
  intro p hp
  cases p
  case wait | paused => simp at hp
  case reg r => exact setReg_unchangedBut s x _ (.reg r) (by simpa using hp)
  case stack => exact ⟨rfl, rfl⟩
  all_goals rfl

/-- Frame of taking the next operation from the host's queue. -/
theorem setHostOps_unchangedBut (s : State) (rest : List HostOp) :
    UnchangedBut [.hostOps] s (s.setEnv { s.env with hostOps := rest }) :=
  setEnv_unchangedBut (by simp [envParts, Part.same])

/-- Settles O24: the step is the pending key, which is delivered where a wait is pending and is otherwise ignored. -/
theorem keyPressEndsAPendingWait : Obligations.KeyPressEndsAPendingWait := by
  intro s k rest hcycle hops
  have hstep := step_hostOperation hcycle hops
  refine ⟨fun x hx => ?_, fun hw => ?_⟩
  · have hkey := keyPress_waiting (s := s.setEnv { s.env with hostOps := rest }) hx k
    refine ⟨_, hstep.trans (congrArg _ hkey), afterKey_reg_toNat _ x k, rfl, rfl, rfl, ?_⟩
    exact ((setHostOps_unchangedBut s rest).mono (by simp)).trans ((afterKey_unchangedBut _ x k).mono (by simp))
  · have hkey := keyPress_ignored (s := s.setEnv { s.env with hostOps := rest }) hw k
    exact ⟨_, hstep.trans (congrArg _ hkey), rfl, setHostOps_unchangedBut s rest⟩

/-- A running core that waits for a key and receives it is as it was but for the register. -/
theorem afterKey_beginWait_unchangedBut {s : State} (hp : s.paused = false) (hw : s.wait = none) (x : Reg) (k : Key) :
    UnchangedBut [.reg x] s (afterKey (s.beginWait x) x k) := by
  intro p hmem
  cases p
  case wait => exact hw.symm
  case paused => exact hp.symm
  case reg r => exact setReg_unchangedBut s x _ (.reg r) hmem
  case stack => exact ⟨rfl, rfl⟩
  all_goals rfl

/-- Settles O25: the handler only suspends the core, and the key that ends the wait writes the register and resumes it. -/
theorem waitForKeyThenKey : Obligations.WaitForKeyThenKey := by
  intro x s
  refine ⟨_, rfl, rfl, rfl, beginWait_unchangedBut s x, fun k => ?_⟩
  rw [keyPress_waiting (State.beginWait_wait s x) k]
  refine ⟨afterKey_reg_toNat _ x k, rfl, rfl, ?_, fun hp hw => afterKey_beginWait_unchangedBut hp hw x k⟩
  exact ((beginWait_unchangedBut s x).mono (by simp)).trans ((afterKey_unchangedBut _ x k).mono (by simp))

end Sys2Proof
end

section
/-! Sprites (spec 46_display.md R192, R193): the pixels of a sprite, and what a `draw` leaves. -/

namespace Sys2Proof

open Machine

theorem eq_wrapPixel_iff {p : Pixel} {x y : Nat} : p = wrapPixel x y ↔ p.1.val = x % 64 ∧ p.2.val = y % 32 := by
  simp [wrapPixel, Prod.ext_iff, Fin.ext_iff]

theorem mem_spriteRow {p : Pixel} {x0 y : Nat} {row : Byte} :
    p ∈ spriteRow x0 y row ↔ ∃ c < 8, row.getLsbD (7 - c) = true ∧ p = wrapPixel (x0 + c) y := by
  simp only [spriteRow, List.mem_filterMap, List.mem_range, Option.ite_none_right_eq_some, Option.some.injEq,
    eq_comm (a := p)]

/-- The pixels of a sprite are those of its rows, each one line further down. -/
theorem mem_spritePixels {p : Pixel} {x0 y0 : Nat} {rows : List Byte} :
    p ∈ spritePixels x0 y0 rows ↔ ∃ r row, rows[r]? = some row ∧ p ∈ spriteRow x0 (y0 + r) row := by
  induction rows generalizing y0 with
  | nil => simp [spritePixels]
  | cons row rows ih =>
    rw [spritePixels, List.mem_append, ih]
    constructor
    · rintro (h | ⟨r, row', hr, h⟩)
      · exact ⟨0, row, rfl, h⟩
      · exact ⟨r + 1, row', hr, by rwa [Nat.add_assoc, Nat.add_comm 1] at h⟩
    · rintro ⟨_ | r, row', hr, h⟩
      · obtain rfl := Option.some.inj hr
        exact .inl h
      · exact .inr ⟨r, row', hr, by rwa [Nat.add_assoc, Nat.add_comm 1]⟩

/-- Eight columns are fewer than the screen's 64, so the pixels of a row are distinct. -/
theorem spriteRow_nodup (x0 y : Nat) (row : Byte) : (spriteRow x0 y row).Nodup := by
  refine List.pairwise_filterMap.mpr (List.Pairwise.imp_of_mem ?_ (List.nodup_range (n := 8)))
  intro c c' hc hc' hne p hp p' hp' heq
  rw [Option.ite_none_right_eq_some] at hp hp'
  have hcol := (eq_wrapPixel_iff.mp (heq.trans (Option.some.inj hp'.2).symm)).1
  rw [← Option.some.inj hp.2] at hcol
  simp only [wrapPixel, List.mem_range] at hcol hc hc'
  omega

/-- Up to 32 rows are no more than the screen's, so the pixels of a sprite are distinct. -/
theorem spritePixels_nodup (x0 y0 : Nat) {rows : List Byte} (h : rows.length ≤ 32) : (spritePixels x0 y0 rows).Nodup := by
  induction rows generalizing y0 with
  | nil => exact List.nodup_nil
  | cons row rows ih =>
    simp only [List.length_cons] at h
    refine List.nodup_append.mpr ⟨spriteRow_nodup .., ih _ (by omega), fun p hp q hq heq => ?_⟩
    obtain ⟨c, _, _, hp⟩ := mem_spriteRow.mp hp
    obtain ⟨r, row', hr, hq⟩ := mem_spritePixels.mp hq
    obtain ⟨c', _, _, hq⟩ := mem_spriteRow.mp hq
    have hlen : r < rows.length := (List.getElem?_eq_some_iff.mp hr).1
    have hp2 := (eq_wrapPixel_iff.mp hp).2
    have hq2 := (eq_wrapPixel_iff.mp hq).2
    rw [heq, hq2] at hp2
    omega

theorem drawPixels_nodup (s : State) (x y : Reg) (n : BitVec 4) : (drawPixels s x y n).Nodup := by
  refine spritePixels_nodup _ _ ?_
  rw [List.length_map, List.length_range]
  omega

theorem mem_drawPixels {s : State} {x y : Reg} {n : BitVec 4} {p : Pixel} :
    p ∈ drawPixels s x y n ↔ SpriteCovers s x y n p := by
  simp only [drawPixels, mem_spritePixels, mem_spriteRow, eq_wrapPixel_iff, List.getElem?_map, Option.map_eq_some_iff,
    List.getElem?_eq_some_iff, List.length_range, List.getElem_range]
  constructor
  · rintro ⟨r, row, ⟨k, ⟨hr, rfl⟩, rfl⟩, c, hc, hbit, hpixel⟩
    exact ⟨r, c, hr, hc, hbit, hpixel⟩
  · rintro ⟨r, c, hr, hc, hbit, hpixel⟩
    exact ⟨r, _, ⟨r, ⟨hr, rfl⟩, rfl⟩, c, hc, hbit, hpixel⟩

/-- Settles O57: the pixels of a sprite are distinct because it is narrower and lower than the screen. -/
theorem drawnPixelsAreDistinct : Obligations.DrawnPixelsAreDistinct :=
  fun x y n s => ⟨drawPixels_nodup s x y n, fun _ => mem_drawPixels⟩

/-! What a `draw` inside memory leaves. -/

/-- The environment and VF after one toggle for each of some pixels (spec R192). -/
def afterToggles (s : State) (ps : List Pixel) : State :=
  (s.setEnv (s.env.askToggles ps).2).setReg VF (flagByte (s.env.askToggles ps).1)

theorem exec_draw {x y : Reg} {n : BitVec 4} {s : State} (h : n.toNat = 0 ∨ s.I.toNat + n.toNat - 1 ≤ 4095) :
    exec (.draw x y n) s = .next (afterToggles s (drawPixels s x y n)) := by
  have hrange : spriteOutOfRange s n = false := by
    refine decide_eq_false ?_
    simp only [State.effAddr, Config.lastAddr]
    omega
  have hread : memReadBlock s (s.effAddr 0) n.toNat =
      .next ((List.range n.toNat).map fun r => s.mem.read (s.I.toNat + r)) := by
    rcases Nat.eq_zero_or_pos n.toNat with hn | hn
    · rw [hn]; rfl
    · exact memReadBlock_in (by simp only [State.effAddr]; omega)
  simp only [exec, execDraw, hrange, hread]
  rfl

theorem exec_draw_out {x y : Reg} {n : BitVec 4} {s : State} (hn : 0 < n.toNat) (h : 4095 < s.I.toNat + n.toNat - 1) :
    exec (.draw x y n) s = .next (raiseFatal .addressOutOfRange s) := by
  have hrange : spriteOutOfRange s n = true := by
    refine decide_eq_true ?_
    simp only [State.effAddr, Config.lastAddr]
    omega
  simp only [exec, execDraw, hrange, if_true]

theorem afterToggles_unchangedBut (s : State) (ps : List Pixel) :
    UnchangedBut [.reg VF, .toggleReplies, .freeCount, .trace] s (afterToggles s ps) :=
  ((askToggles_unchangedBut s ps).mono (by simp)).trans ((setReg_unchangedBut _ VF _).mono (by simp))

theorem afterToggles_trace (s : State) (ps : List Pixel) :
    (afterToggles s ps).env.trace = s.env.trace ++ ps.map (fun p => .request (.frameToggle p)) := by
  simp [afterToggles]

theorem afterToggles_flag (s : State) (ps : List Pixel) :
    (afterToggles s ps).reg VF = flagByte (s.env.askToggles ps).1 := State.reg_setReg_same ..

theorem flagByte_zero_or_one (f : Bool) : flagByte f = 0 ∨ flagByte f = 1 := by
  cases f
  · exact .inl rfl
  · exact .inr rfl

/-- With settled replies VF is whether one of them was true, and exactly they are used up. -/
theorem afterToggles_settled {s : State} {ps : List Pixel} {replies rest : List Bool}
    (h : s.env.toggleReplies = replies ++ rest) (hlen : replies.length = ps.length) :
    (afterToggles s ps).reg VF = (if true ∈ replies then 1 else 0) ∧ (afterToggles s ps).env.toggleReplies = rest := by
  obtain ⟨hany, hrest⟩ := Env.askToggles_settled s.env ps hlen h
  refine ⟨?_, hrest⟩
  rw [afterToggles_flag, hany]
  simp [flagByte]

/-- Settles O56: the handler reads the sprite and toggles its pixels one by one. -/
theorem drawTogglesEachSetBit : Obligations.DrawTogglesEachSetBit := by
  intro x y n s h
  refine ⟨_, exec_draw h, afterToggles_trace .., ?_, fun hn => ?_, fun replies rest hr hlen => ?_,
    afterToggles_unchangedBut s _⟩
  · rw [afterToggles_flag]
    exact flagByte_zero_or_one _
  · have hnone : drawPixels s x y n = [] := by simp [drawPixels, hn, spritePixels]
    rw [afterToggles_flag, hnone]
    rfl
  · obtain ⟨hflag, hrest⟩ := afterToggles_settled hr hlen
    exact ⟨hflag, hrest, Env.askToggles_settled_freeCount s.env _ hlen hr⟩

end Sys2Proof
end

section
/-! The reference framebuffer (spec 50_interfaces.md R214): a draw on it XORs the sprite onto the pixels. -/

namespace Sys2Proof.Machine

/-- The requests of a list of toggles, as an observer sees them. -/
def toggleEvents (ps : List Pixel) : List Event := ps.map fun p => .request (.frameToggle p)

theorem Frame.after_append (f : Frame) (evs evs' : List Event) : f.after (evs ++ evs') = (f.after evs).after evs' := by
  induction evs generalizing f with
  | nil => rfl
  | cons ev evs ih => cases ev <;> exact ih _

theorem Frame.replies_append (f : Frame) (ps qs : List Pixel) :
    f.replies (ps ++ qs) = f.replies ps ++ (f.after (toggleEvents ps)).replies qs := by
  induction ps generalizing f with
  | nil => rfl
  | cons p ps ih => exact congrArg (f p :: ·) (ih _)

theorem Frame.length_replies (f : Frame) (ps : List Pixel) : (f.replies ps).length = ps.length := by
  induction ps generalizing f with
  | nil => rfl
  | cons p ps ih => exact congrArg (· + 1) (ih _)

theorem Frame.apply_toggle (f : Frame) (p q : Pixel) : f.apply (.frameToggle p) q = if q = p then !f q else f q := rfl

/-- Distinct pixels are inverted once each, and no other is. -/
theorem Frame.after_toggleEvents {ps : List Pixel} (h : ps.Nodup) (f : Frame) (q : Pixel) :
    f.after (toggleEvents ps) q = if q ∈ ps then !f q else f q := by
  induction ps generalizing f with
  | nil => rfl
  | cons p ps ih =>
    obtain ⟨hp, hps⟩ := List.nodup_cons.mp h
    have hcons : f.after (toggleEvents (p :: ps)) = (f.apply (.frameToggle p)).after (toggleEvents ps) := rfl
    rw [hcons, ih hps, Frame.apply_toggle]
    by_cases hq : q = p
    · subst hq
      simp [hp]
    · simp [hq]

/-- Each of a list of distinct pixels replies with its old value: no earlier toggle of the list has changed it. -/
theorem Frame.replies_eq_map {ps : List Pixel} (h : ps.Nodup) (f : Frame) : f.replies ps = ps.map f := by
  induction ps generalizing f with
  | nil => rfl
  | cons p ps ih =>
    obtain ⟨hp, hps⟩ := List.nodup_cons.mp h
    have hsame : ps.map (f.apply (.frameToggle p)) = ps.map f :=
      List.map_congr_left fun q hq => if_neg (ne_of_mem_of_not_mem hq hp)
    rw [Frame.replies, ih hps, hsame, List.map_cons]

/-- Inverting distinct pixels twice restores the frame. -/
theorem Frame.after_toggleEvents_twice {ps : List Pixel} (h : ps.Nodup) (f : Frame) :
    f.after (toggleEvents ps ++ toggleEvents ps) = f := by
  funext q
  rw [Frame.after_append, Frame.after_toggleEvents h, Frame.after_toggleEvents h]
  by_cases hq : q ∈ ps <;> simp [hq]

end Sys2Proof.Machine

namespace Sys2Proof

open Machine

/-- On the reference framebuffer a draw of distinct pixels answers whether one of them was set. -/
theorem afterToggles_reference {s : State} {ps : List Pixel} {f : Frame} {rest : List Bool} (hps : ps.Nodup)
    (h : s.env.toggleReplies = f.replies ps ++ rest) :
    (afterToggles s ps).reg VF = (if ∃ p ∈ ps, f p = true then 1 else 0) ∧ (afterToggles s ps).env.toggleReplies = rest := by
  simpa [Frame.replies_eq_map hps] using afterToggles_settled h (Frame.length_replies f ps)

/-- Settles O58: the sprite's pixels are distinct, so each is inverted once and each reply is its old value. -/
theorem drawOnTheReferenceFrame : Obligations.DrawOnTheReferenceFrame := by
  intro x y n s f rest hin hreplies
  have hps := drawPixels_nodup s x y n
  obtain ⟨hflag, -⟩ := afterToggles_reference hps hreplies
  have hiff : (∃ p ∈ drawPixels s x y n, f p = true) ↔ ∃ p, SpriteCovers s x y n p ∧ f p = true :=
    exists_congr fun _ => and_congr_left' mem_drawPixels
  refine ⟨_, toggleEvents (drawPixels s x y n), exec_draw hin, afterToggles_trace .., fun p hp => ?_, fun p hp => ?_,
    fun h => hflag.trans (if_pos (hiff.mpr h)), fun h => hflag.trans (if_neg (hiff.not.mpr h))⟩
  · rw [Frame.after_toggleEvents hps, if_pos (mem_drawPixels.mpr hp)]
  · rw [Frame.after_toggleEvents hps, if_neg (mem_drawPixels.not.mpr hp)]

/-- Drawing changes no operand of a draw whose coordinates are not in VF. -/
theorem drawPixels_afterToggles (s : State) (ps : List Pixel) {x y : Reg} (hx : x ≠ VF) (hy : y ≠ VF) (n : BitVec 4) :
    drawPixels (afterToggles s ps) x y n = drawPixels s x y n := by
  simp [drawPixels, afterToggles, State.reg_setReg_other, hx, hy]

/-- Settles O59: the second draw toggles the same pixels, which the first draw has set. -/
theorem drawingTwiceErasesTheSprite : Obligations.DrawingTwiceErasesTheSprite := by
  intro x y n s rest hx hy hin hreplies
  have hps := drawPixels_nodup s x y n
  rw [Frame.replies_append, List.append_assoc] at hreplies
  obtain ⟨hfirst, hrest⟩ := afterToggles_reference hps hreplies
  obtain ⟨hsecond, -⟩ := afterToggles_reference hps hrest
  have hagain := exec_draw (x := x) (y := y) (s := afterToggles s (drawPixels s x y n)) hin
  rw [drawPixels_afterToggles s _ hx hy] at hagain
  refine ⟨_, _, toggleEvents (drawPixels s x y n) ++ toggleEvents (drawPixels s x y n), exec_draw hin, hagain, ?_,
    Frame.after_toggleEvents_twice hps _, ?_, fun hne => ?_⟩
  · rw [afterToggles_trace, afterToggles_trace, List.append_assoc]
    rfl
  · rw [hfirst]
    exact if_neg fun ⟨p, _, hp⟩ => Bool.false_ne_true hp
  · obtain ⟨p, hp⟩ := List.exists_mem_of_ne_nil _ hne
    rw [hsecond]
    exact if_pos ⟨p, hp, by rw [Frame.after_toggleEvents hps, if_pos hp]; rfl⟩

end Sys2Proof
end

section
/-! What an instruction can do: its fatal condition, exactly where it holds (spec R230, R241), and otherwise its completion,
within the access matrix (spec R30). Every rule over all instructions follows from these two cases. -/

namespace Sys2Proof

open Machine

theorem sp_eq_neg_one_iff {s : State} : s.sp = -1 ↔ s.depth.val = 0 := by
  unfold State.sp
  omega

theorem sp_eq_fifteen_iff {s : State} : s.sp = 15 ↔ s.depth.val = 16 := by
  unfold State.sp
  omega

/-- A condition that reports no kind does not hold. -/
theorem not_of_ite_eq_none {cond : Prop} [Decidable cond] {kind : FatalKind}
    (h : (if cond then some kind else none) = none) : ¬cond := by simpa using h

/-- A condition that reports a kind holds, and the kind is its own. -/
theorem of_ite_eq_some {cond : Prop} [Decidable cond] {kind kind' : FatalKind}
    (h : (if cond then some kind else none) = some kind') : cond ∧ kind' = kind := by
  simpa [eq_comm] using h

/-- An instruction whose fatal condition holds raises it and does nothing else. -/
theorem exec_of_fatalCondition {i : Instr} {s : State} {kind : FatalKind} (h : i.fatalCondition s = some kind) :
    exec i s = .next (raiseFatal kind s) := by
  cases i
  case ret =>
    obtain ⟨hcond, rfl⟩ := of_ite_eq_some h
    exact exec_ret_empty (sp_eq_neg_one_iff.mp hcond)
  case call =>
    obtain ⟨hcond, rfl⟩ := of_ite_eq_some h
    exact exec_call_full (sp_eq_fifteen_iff.mp hcond) _
  case loadSpriteAddr =>
    obtain ⟨hcond, rfl⟩ := of_ite_eq_some h
    exact exec_loadSpriteAddr_invalid hcond
  case draw =>
    obtain ⟨hcond, rfl⟩ := of_ite_eq_some h
    exact exec_draw_out hcond.1 hcond.2
  case storeBcd =>
    obtain ⟨hcond, rfl⟩ := of_ite_eq_some h
    exact exec_storeBcd_out hcond
  case storeRegs =>
    obtain ⟨hcond, rfl⟩ := of_ite_eq_some h
    exact exec_storeRegs_out hcond
  case loadRegs =>
    obtain ⟨hcond, rfl⟩ := of_ite_eq_some h
    exact exec_loadRegs_out hcond
  all_goals cases h

/-! The completions of the seven instructions that have a fatal condition: where it does not hold, and what is left. -/

theorem completion_ret {s t : State} (hnone : Instr.ret.fatalCondition s = none) (h : exec .ret s = .next t) :
    ∃ hdepth : 0 < s.depth.val, t = afterRet s hdepth := by
  have hdepth := Nat.pos_of_ne_zero (sp_eq_neg_one_iff.not.mp (not_of_ite_eq_none hnone))
  exact ⟨hdepth, Host.Outcome.next.inj (h.symm.trans (exec_ret hdepth))⟩

theorem completion_call {nnn : BitVec 12} {s t : State} (hnone : (Instr.call nnn).fatalCondition s = none)
    (h : exec (.call nnn) s = .next t) : ∃ hdepth : s.depth.val < 16, t = afterCall s nnn hdepth := by
  have hdepth : s.depth.val < 16 :=
    Nat.lt_of_le_of_ne (Nat.le_of_lt_succ s.depth.isLt) (sp_eq_fifteen_iff.not.mp (not_of_ite_eq_none hnone))
  exact ⟨hdepth, Host.Outcome.next.inj (h.symm.trans (exec_call hdepth nnn))⟩

theorem completion_loadSpriteAddr {x : Reg} {s t : State} (hnone : (Instr.loadSpriteAddr x).fatalCondition s = none)
    (h : exec (.loadSpriteAddr x) s = .next t) : (s.reg x).toNat ≤ 15 ∧ t = s.setI (glyphAddr (s.reg x)) := by
  have hdigit := Nat.not_lt.mp (not_of_ite_eq_none hnone)
  exact ⟨hdigit, Host.Outcome.next.inj (h.symm.trans (exec_loadSpriteAddr hdigit))⟩

theorem completion_draw {x y : Reg} {n : BitVec 4} {s t : State} (hnone : (Instr.draw x y n).fatalCondition s = none)
    (h : exec (.draw x y n) s = .next t) :
    (n.toNat = 0 ∨ s.I.toNat + n.toNat - 1 ≤ 4095) ∧ t = afterToggles s (drawPixels s x y n) := by
  have hcond := not_of_ite_eq_none hnone
  have hrange : n.toNat = 0 ∨ s.I.toNat + n.toNat - 1 ≤ 4095 := by omega
  exact ⟨hrange, Host.Outcome.next.inj (h.symm.trans (exec_draw hrange))⟩

theorem completion_storeBcd {x : Reg} {s t : State} (hnone : (Instr.storeBcd x).fatalCondition s = none)
    (h : exec (.storeBcd x) s = .next t) :
    s.I.toNat + 2 ≤ 4095 ∧ t = s.setMem (writeImage s.mem s.I.toNat (bcdDigits (s.reg x))) := by
  have hrange := Nat.not_lt.mp (not_of_ite_eq_none hnone)
  exact ⟨hrange, Host.Outcome.next.inj (h.symm.trans (exec_storeBcd hrange))⟩

theorem completion_storeRegs {x : Reg} {s t : State} (hnone : (Instr.storeRegs x).fatalCondition s = none)
    (h : exec (.storeRegs x) s = .next t) :
    s.I.toNat + x.val ≤ 4095 ∧ t = s.setMem (writeImage s.mem s.I.toNat ((regsUpTo x).map s.reg)) := by
  have hrange := Nat.not_lt.mp (not_of_ite_eq_none hnone)
  exact ⟨hrange, Host.Outcome.next.inj (h.symm.trans (exec_storeRegs hrange))⟩

theorem completion_loadRegs {x : Reg} {s t : State} (hnone : (Instr.loadRegs x).fatalCondition s = none)
    (h : exec (.loadRegs x) s = .next t) :
    s.I.toNat + x.val ≤ 4095 ∧ ∃ v : Vector Byte 16,
      (∀ r : Reg, v[r.val] = if r ≤ x then s.mem.read (s.I.toNat + r.val) else s.reg r) ∧ t = { s with V := v } := by
  have hrange := Nat.not_lt.mp (not_of_ite_eq_none hnone)
  obtain ⟨v, hexec, hv⟩ := exec_loadRegs hrange
  exact ⟨hrange, v, hv, Host.Outcome.next.inj (h.symm.trans hexec)⟩

/-- The parts an instruction may change where it completes: the access matrix without what a fatal condition writes. -/
def Instr.completionParts (i : Instr) (s : State) : List Part :=
  match i with
  | .ret | .call _ => [.pc, .stack]
  | .draw _ _ _ => [.reg VF, .toggleReplies, .freeCount, .trace]
  | .loadSpriteAddr _ => [.index]
  | .storeBcd _ => byteParts s.I.toNat 3
  | .storeRegs x => byteParts s.I.toNat (x.val + 1)
  | .loadRegs x => (regsUpTo x).map .reg
  | i => i.mayWrite s

/-- An instruction whose fatal condition does not hold completes within its parts. -/
theorem exec_completes {i : Instr} {s : State} (h : i.fatalCondition s = none) :
    ∃ t, exec i s = .next t ∧ UnchangedBut (i.completionParts s) s t := by
  cases i
  case clearScreen => exact ⟨_, rfl, request_unchangedBut s _⟩
  case ret =>
    have hdepth := sp_eq_neg_one_iff.not.mp (not_of_ite_eq_none h)
    exact ⟨_, exec_ret (Nat.pos_of_ne_zero hdepth), afterRet_unchangedBut s _⟩
  case call nnn =>
    have hdepth := sp_eq_fifteen_iff.not.mp (not_of_ite_eq_none h)
    exact ⟨_, exec_call (by omega) nnn, afterCall_unchangedBut s nnn _⟩
  case loadSpriteAddr x => exact ⟨_, exec_loadSpriteAddr (Nat.not_lt.mp (not_of_ite_eq_none h)), setI_unchangedBut s _⟩
  case draw x y n =>
    have hrange := not_of_ite_eq_none h
    exact ⟨_, exec_draw (by omega), afterToggles_unchangedBut s _⟩
  case storeBcd x => exact ⟨_, exec_storeBcd (Nat.not_lt.mp (not_of_ite_eq_none h)), storeBcd_unchangedBut s _⟩
  case storeRegs x => exact ⟨_, exec_storeRegs (Nat.not_lt.mp (not_of_ite_eq_none h)), storeRegs_unchangedBut s x⟩
  case loadRegs x =>
    obtain ⟨v, hexec, hv⟩ := exec_loadRegs (Nat.not_lt.mp (not_of_ite_eq_none h))
    exact ⟨_, hexec, loadRegs_unchangedBut hv⟩
  case random x nn => exact ⟨_, rfl, random_unchangedBut s x _⟩
  case skipKey x | skipNotKey x => exact ⟨_, rfl, skipKey_unchangedBut s _ _⟩
  case waitKey x => exact ⟨_, rfl, beginWait_unchangedBut s x⟩
  case storeDelay x => exact ⟨_, rfl, setDelay_unchangedBut s _⟩
  case storeSound x => exact ⟨_, rfl, setSound_unchangedBut s _⟩
  case loadIndex nnn | addIndex x => exact ⟨_, rfl, setI_unchangedBut s _⟩
  case jump nnn | jumpV0 nnn => exact ⟨_, rfl, setPc_unchangedBut s _⟩
  case skipEqImm | skipNeImm | skipEqReg | skipNeReg => exact ⟨_, rfl, skipIf_unchangedBut s _⟩
  case addCarry x y | subBorrow x y | shiftRight x y | reverseSub x y | shiftLeft x y =>
    exact ⟨_, rfl, setRegThenFlag_unchangedBut s x _ _⟩
  case loadImm x _ | addImm x _ | copy x _ | orReg x _ | andReg x _ | xorReg x _ | loadDelay x =>
    exact ⟨_, rfl, setReg_unchangedBut s x _⟩

/-- Every instruction answers a next state: it raises its fatal condition, or it completes within its parts. -/
theorem exec_cases (i : Instr) (s : State) :
    (∃ kind, i.fatalCondition s = some kind ∧ exec i s = .next (raiseFatal kind s)) ∨
    (i.fatalCondition s = none ∧ ∃ t, exec i s = .next t ∧ UnchangedBut (i.completionParts s) s t) := by
  cases h : i.fatalCondition s with
  | none => exact .inr ⟨rfl, exec_completes h⟩
  | some kind => exact .inl ⟨kind, rfl, exec_of_fatalCondition h⟩

/-- The same two cases for a known next state. -/
theorem exec_next_cases {i : Instr} {s t : State} (h : exec i s = .next t) :
    (∃ kind, i.fatalCondition s = some kind ∧ t = raiseFatal kind s) ∨
    (i.fatalCondition s = none ∧ UnchangedBut (i.completionParts s) s t) := by
  rcases exec_cases i s with ⟨kind, hkind, hexec⟩ | ⟨hnone, u, hexec, hframe⟩ <;>
    obtain rfl := Host.Outcome.next.inj (h.symm.trans hexec)
  · exact .inl ⟨kind, hkind, rfl⟩
  · exact .inr ⟨hnone, hframe⟩

theorem exec_next (i : Instr) (s : State) : ∃ t, exec i s = .next t := by
  rcases exec_cases i s with ⟨_, _, hexec⟩ | ⟨_, t, hexec, _⟩ <;> exact ⟨_, hexec⟩

/-! What the parts of a completion are not. -/

theorem completionParts_subset_mayWrite (i : Instr) (s : State) : ∀ p ∈ i.completionParts s, p ∈ i.mayWrite s := by
  cases i
  case ret | call | draw | storeBcd | storeRegs | loadRegs => exact fun p hp => List.mem_append_left _ hp
  case loadSpriteAddr => exact fun p hp => List.mem_cons.mpr (.inl (List.mem_singleton.mp hp))
  all_goals exact fun p hp => hp

theorem fatal_not_mem_completionParts (i : Instr) (s : State) : Part.fatal ∉ i.completionParts s := by
  cases i <;> simp [Instr.completionParts, Instr.mayWrite]

/-- An instruction that can raise a fatal condition is given its parts by the matrix. -/
theorem fatalParts_subset_mayWrite {i : Instr} {s : State} {kind : FatalKind} (h : i.fatalCondition s = some kind) :
    ∀ p ∈ fatalParts, p ∈ i.mayWrite s := by
  cases i
  case ret | call | draw | storeBcd | storeRegs | loadRegs => exact fun p hp => List.mem_append_right _ hp
  case loadSpriteAddr => exact fun p hp => List.mem_cons_of_mem _ hp
  all_goals cases h

/-- Settles O26: a fatal condition writes only its own two parts, and a completion only the instruction's. -/
theorem accessMatrixOfWrites : Obligations.AccessMatrixOfWrites := by
  intro i s t h
  rcases exec_next_cases h with ⟨kind, hkind, rfl⟩ | ⟨_, hframe⟩
  · exact (raiseFatal_unchangedBut kind s).mono (fatalParts_subset_mayWrite hkind)
  · exact hframe.mono (completionParts_subset_mayWrite i s)

/-- Settles O27: the two cases of an instruction; a completion does not write the kind. -/
theorem fatalConditionsArePrecise : Obligations.FatalConditionsArePrecise := by
  intro i s
  cases h : i.fatalCondition s with
  | some kind => exact exec_of_fatalCondition h
  | none =>
    obtain ⟨t, hexec, hframe⟩ := exec_completes h
    exact ⟨t, hexec, hframe .fatal (fatal_not_mem_completionParts i s)⟩

/-- An instruction that writes the flag and completes leaves 0 or 1 in VF. -/
theorem flag_of_writesFlag {i : Instr} {s t : State} (h : exec i s = .next t) (hnone : i.fatalCondition s = none)
    (hflag : i.writesFlag = true) : ∃ f, t.reg VF = flagByte f := by
  cases i
  case addCarry | subBorrow | shiftRight | reverseSub | shiftLeft =>
    obtain rfl := Host.Outcome.next.inj h
    exact ⟨_, State.reg_setRegThenFlag_flag ..⟩
  case draw x y n =>
    obtain ⟨-, rfl⟩ := completion_draw hnone h
    exact ⟨_, afterToggles_flag ..⟩
  all_goals cases hflag

/-- Settles O28: each of the six ends with a flag byte in VF; the others keep VF by the access matrix. -/
theorem onlySixInstructionsWriteTheFlag : Obligations.OnlySixInstructionsWriteTheFlag := by
  intro i s t h hnone
  refine ⟨fun hflag => ?_, fun _ hvf => accessMatrixOfWrites i s t h (.reg VF) hvf⟩
  obtain ⟨f, hf⟩ := flag_of_writesFlag h hnone hflag
  rw [hf]
  exact flagByte_zero_or_one f

/-- An instruction that is not given the trace issues no request. -/
theorem requests_of_trace_not_mem {i : Instr} {s t : State} (h : exec i s = .next t) (htrace : Part.trace ∉ i.mayWrite s) :
    ∃ reqs : List Request, t.env.trace = s.env.trace ++ reqs.map Event.request ∧ ∀ r ∈ reqs, i.mayRequest r = true :=
  ⟨[], (accessMatrixOfWrites i s t h .trace htrace).trans (List.append_nil _).symm, by simp⟩

/-- The query of a key skip is for the code its register names, if it names one. -/
theorem askKeyCode_trace (e : Env) (c : Option Key) :
    (e.askKeyCode c).2.trace = e.trace ++ (c.toList.map Request.keyIsPressed).map Event.request := by
  cases c with
  | none => exact (List.append_nil _).symm
  | some k => exact Env.askKey_trace e k

/-- Settles O29: five instructions are given the trace, and each records requests of its own kind alone. -/
theorem requestsComeFromTheirInstructions : Obligations.RequestsComeFromTheirInstructions := by
  intro i s t h
  cases i
  case clearScreen =>
    obtain rfl := Host.Outcome.next.inj h
    exact ⟨[.frameClear], Env.request_trace .., by simp [Instr.mayRequest]⟩
  case random x nn =>
    obtain rfl := Host.Outcome.next.inj h
    exact ⟨[.randNext], Env.askRandom_trace .., by simp [Instr.mayRequest]⟩
  case skipKey x | skipNotKey x =>
    obtain rfl := Host.Outcome.next.inj h
    refine ⟨(keyOfByte (s.reg x)).toList.map .keyIsPressed, ?_, by simp [Instr.mayRequest]⟩
    rw [State.skipIf_env, State.setEnv_env, askKeyCode_trace]
  case draw x y n =>
    rcases exec_next_cases h with ⟨kind, _, rfl⟩ | ⟨hnone, _⟩
    · exact ⟨[], (List.append_nil _).symm, by simp⟩
    · obtain ⟨-, rfl⟩ := completion_draw hnone h
      refine ⟨(drawPixels s x y n).map .frameToggle, ?_, fun r hr => ?_⟩
      · rw [afterToggles_trace, List.map_map]
        rfl
      · obtain ⟨p, _, rfl⟩ := List.mem_map.mp hr
        rfl
  all_goals exact requests_of_trace_not_mem h (by simp [Instr.mayWrite, fatalParts])

end Sys2Proof
end

section
/-! One step of the machine (spec 40_cycle.md): inside a cycle an instruction or the end of the cycle, and what an instruction
step can do. -/

namespace Sys2Proof.Machine

/-! The kinds of step. -/

/-- Inside a cycle with an instruction to go, and not paused, a step is that instruction (spec R81). -/
theorem step_instruction {s : State} {k : Nat} (hcycle : s.cycle = some (k + 1)) (hpaused : s.paused = false) :
    step s = instructionStep (s.setCycle (some k)) := by
  simp [step, machineStep, hcycle, hpaused]

/-- A cycle ends where no instruction is left, or where the core is paused (spec R81, R83). -/
theorem step_endCycle {s : State} {k : Nat} (hcycle : s.cycle = some k) (hend : k = 0 ∨ s.paused = true) :
    step s = .next ((endCycle s).setCycle none) := by
  cases k with
  | zero => simp only [step, machineStep, hcycle]
  | succ k =>
    have hpaused : s.paused = true := hend.resolve_left (Nat.succ_ne_zero k)
    simp only [step, machineStep, hcycle, hpaused, if_true]

/-- With no host operation pending a step between cycles changes nothing (spec R201). -/
theorem step_idle {s : State} (hcycle : s.cycle = none) (hops : s.env.hostOps = []) : step s = .next s := by
  simp only [step, machineStep, hcycle, nextHostOp, hops]

/-- Every step is of one of these kinds. -/
theorem step_cases (s : State) :
    step s = .next s ∨
    (∃ op rest, s.env.hostOps = op :: rest ∧ step s = .next (hostOperation op (s.setEnv { s.env with hostOps := rest }))) ∨
    step s = .next ((endCycle s).setCycle none) ∨
    (s.paused = false ∧ ∃ k, step s = instructionStep (s.setCycle (some k))) := by
  cases hcycle : s.cycle with
  | none =>
    cases hops : s.env.hostOps with
    | nil => exact .inl (step_idle hcycle hops)
    | cons op rest => exact .inr (.inl ⟨op, rest, rfl, step_hostOperation hcycle hops⟩)
  | some k =>
    cases k with
    | zero => exact .inr (.inr (.inl (step_endCycle hcycle (.inl rfl))))
    | succ k =>
      cases hpaused : s.paused with
      | true => exact .inr (.inr (.inl (step_endCycle hcycle (.inr hpaused))))
      | false => exact .inr (.inr (.inr ⟨rfl, k, step_instruction hcycle hpaused⟩))

/-! The instruction step. -/

theorem instructionStep_in {s : State} (h : s.pc.toNat ≤ 4094) :
    instructionStep s = dispatchBytes [s.mem.read s.pc.toNat, s.mem.read (s.pc.toNat + 1)] s.advancePc := by
  rw [instructionStep, checkRange_in (Nat.succ_le_succ h), fetchBytes_in h, andThen_next]

theorem instructionStep_out {s : State} (h : 4095 ≤ s.pc.toNat) :
    instructionStep s = .next (raiseFatal .addressOutOfRange s) := checkRange_out (Nat.lt_succ_of_le h) _

theorem dispatchBytes_instr {bytes rest : List Byte} {i : Instr} (h : decodeBytes bytes = .instr i rest) (s : State) :
    dispatchBytes bytes s = exec i s := by
  simp only [dispatchBytes, h]

theorem dispatchBytes_unknown {bytes : List Byte} {op : Opcode} (h : decodeBytes bytes = .unknownOpcode op) (s : State) :
    dispatchBytes bytes s = .next (raiseFatal .unknownOpcode s) := by
  simp only [dispatchBytes, h]

/-- An instruction step raises the condition of its fetch, or, with `pc` advanced, that of its word, or runs an instruction. -/
theorem instructionStep_cases (s : State) :
    instructionStep s = .next (raiseFatal .addressOutOfRange s) ∨
    (s.pc.toNat ≤ 4094 ∧ (instructionStep s = .next (raiseFatal .unknownOpcode s.advancePc) ∨
      ∃ i, instructionStep s = exec i s.advancePc)) := by
  rcases Nat.lt_or_ge s.pc.toNat 4095 with h | h
  · refine .inr ⟨Nat.le_of_lt_succ h, ?_⟩
    rw [instructionStep_in (Nat.le_of_lt_succ h), dispatchBytes]
    split
    · exact .inr ⟨_, rfl⟩
    · exact .inl rfl
    · exact .inl rfl
  · exact .inl (instructionStep_out h)

end Sys2Proof.Machine

namespace Sys2Proof

open Machine

/-- Every instruction step answers a next state. -/
theorem instructionStep_next (s : State) : ∃ t, instructionStep s = .next t := by
  rcases instructionStep_cases s with h | ⟨_, h | ⟨i, h⟩⟩
  · exact ⟨_, h⟩
  · exact ⟨_, h⟩
  · obtain ⟨t, ht⟩ := exec_next i s.advancePc
    exact ⟨t, h.trans ht⟩

/-- Settles O9: host operations and the end of a cycle are plain updates, and every instruction step answers a next state. -/
theorem everyStepIsSafe : Obligations.EveryStepIsSafe := by
  intro s
  rcases step_cases s with h | ⟨op, rest, _, h⟩ | h | ⟨_, k, h⟩
  · exact ⟨_, h⟩
  · exact ⟨_, h⟩
  · exact ⟨_, h⟩
  · obtain ⟨t, ht⟩ := instructionStep_next (s.setCycle (some k))
    exact ⟨t, h.trans ht⟩

/-- Settles O6: the step is an instruction step, whose two bytes lie inside memory and decode to the instruction. -/
theorem stepRunsTheDecodedInstruction : Obligations.StepRunsTheDecodedInstruction := by
  intro s k i hcycle hpaused hpc hdecode
  have hin : instructionStep (s.setCycle (some k)) = _ := instructionStep_in hpc
  exact (step_instruction hcycle hpaused).trans (hin.trans (dispatchBytes_instr hdecode _))

/-- Settles O8: the step is an instruction step that finds no instruction at `pc`, or no memory. -/
theorem stepWithoutAnInstructionHalts : Obligations.StepWithoutAnInstructionHalts := by
  intro s k hcycle hpaused
  have hstep := step_instruction hcycle hpaused
  have hcount := setCycle_unchangedBut s (some k)
  refine ⟨fun op hpc hdecode => ?_, fun hpc => ?_⟩
  · have hin : instructionStep (s.setCycle (some k)) = _ := instructionStep_in hpc
    refine ⟨_, hstep.trans (hin.trans (dispatchBytes_unknown hdecode _)), rfl, rfl, rfl, rfl, ?_⟩
    exact ((hcount.mono (by simp)).trans ((setPc_unchangedBut _ _).mono (by simp))).trans
      ((raiseFatal_unchangedBut _ _).mono (by simp [fatalParts]))
  · have hout : instructionStep (s.setCycle (some k)) = _ := instructionStep_out hpc
    refine ⟨_, hstep.trans hout, rfl, rfl, rfl, ?_⟩
    exact (hcount.mono (by simp)).trans ((raiseFatal_unchangedBut _ _).mono (by simp [fatalParts]))

end Sys2Proof
end

section
/-! The invariants (spec 10_state.md R17, R26): each is kept by every part of a step, and so by every step. -/

namespace Sys2Proof

open Machine

/-- A predicate on states that each part of a step keeps. -/
structure KeptByParts (P : State → Prop) : Prop where
  setCycle : ∀ s c, P s → P (s.setCycle c)
  setEnv : ∀ s e, P s → P (s.setEnv e)
  tick : ∀ s, P s → P (tick s)
  reset : ∀ s, P (resetCore s)
  load : ∀ s image, image.length ≤ 3584 → P s → P (s.setMem (writeImage s.mem 0x200 image))
  key : ∀ s k, P s → P (keyPress k s)
  instruction : ∀ s t, s.paused = false → P s → instructionStep s = .next t → P t

theorem loadProgram_fits {image : List Byte} (h : image.length ≤ 3584) (s : State) :
    loadProgram image s = (s.setMem (writeImage s.mem 0x200 image)).setEnv (s.env.answer .loaded) :=
  if_pos (decide_eq_true h)

theorem loadProgram_refused {image : List Byte} (h : 3584 < image.length) (s : State) :
    loadProgram image s = s.setEnv (s.env.answer .loadTooLarge) :=
  if_neg (ne_true_of_eq_false (decide_eq_false (Nat.not_le.mpr h)))

theorem KeptByParts.hostOperation {P : State → Prop} (hP : KeptByParts P) (op : HostOp) {s : State} (hs : P s) :
    P (hostOperation op s) := by
  cases op with
  | reset => exact hP.reset s
  | loadProgram image =>
    rcases Nat.lt_or_ge 3584 image.length with h | h
    · rw [Machine.hostOperation, loadProgram_refused h]
      exact hP.setEnv _ _ hs
    · rw [Machine.hostOperation, loadProgram_fits h]
      exact hP.setEnv _ _ (hP.load s image h hs)
  | runCycle n => exact hP.setCycle s _ hs
  | keyPress k => exact hP.key s k hs

theorem KeptByParts.endCycle {P : State → Prop} (hP : KeptByParts P) {s : State} (hs : P s) : P (endCycle s) := by
  unfold Machine.endCycle
  split
  · exact hP.setEnv _ _ hs
  · exact hP.setEnv _ _ (hP.tick s hs)

/-- What each part of a step keeps, the step keeps. -/
theorem KeptByParts.step {P : State → Prop} (hP : KeptByParts P) {s t : State} (hs : P s) (h : step s = .next t) : P t := by
  rcases step_cases s with hstep | ⟨op, rest, _, hstep⟩ | hstep | ⟨hpaused, k, hstep⟩
  · obtain rfl := Host.Outcome.next.inj (hstep.symm.trans h)
    exact hs
  · obtain rfl := Host.Outcome.next.inj (hstep.symm.trans h)
    exact hP.hostOperation op (hP.setEnv _ _ hs)
  · obtain rfl := Host.Outcome.next.inj (hstep.symm.trans h)
    exact hP.setCycle _ _ (hP.endCycle hs)
  · exact hP.instruction (s.setCycle (some k)) t hpaused (hP.setCycle s _ hs) (hstep.symm.trans h)

/-! Memory. -/

/-- An instruction leaves memory, or writes one block inside it. -/
theorem exec_mem {i : Instr} {s t : State} (h : exec i s = .next t) :
    t.mem = s.mem ∨ ∃ base bytes, base + bytes.length ≤ 4096 ∧ t.mem = writeImage s.mem base bytes := by
  rcases exec_next_cases h with ⟨kind, -, rfl⟩ | ⟨hnone, -⟩
  · exact .inl rfl
  cases i
  case storeBcd x =>
    obtain ⟨hrange, rfl⟩ := completion_storeBcd hnone h
    exact .inr ⟨_, _, by rw [length_bcdDigits]; omega, rfl⟩
  case storeRegs x =>
    obtain ⟨hrange, rfl⟩ := completion_storeRegs hnone h
    exact .inr ⟨_, _, by rw [length_map_regsUpTo]; omega, rfl⟩
  case ret =>
    obtain ⟨hdepth, rfl⟩ := completion_ret hnone h
    exact .inl rfl
  case call nnn =>
    obtain ⟨hdepth, rfl⟩ := completion_call hnone h
    exact .inl rfl
  case loadSpriteAddr x =>
    obtain ⟨hdigit, rfl⟩ := completion_loadSpriteAddr hnone h
    exact .inl rfl
  case draw x y n =>
    obtain ⟨hrange, rfl⟩ := completion_draw hnone h
    exact .inl rfl
  case loadRegs x =>
    obtain ⟨hrange, v, _, rfl⟩ := completion_loadRegs hnone h
    exact .inl rfl
  case skipEqImm | skipNeImm | skipEqReg | skipNeReg | skipKey | skipNotKey =>
    obtain rfl := Host.Outcome.next.inj h
    exact .inl (State.skipIf_mem _ _)
  all_goals
    obtain rfl := Host.Outcome.next.inj h
    exact .inl rfl

theorem instructionStep_keeps_wf {s t : State} (hs : s.mem.wf) (h : instructionStep s = .next t) : t.mem.wf := by
  rcases instructionStep_cases s with hstep | ⟨_, hstep | ⟨i, hstep⟩⟩
  · obtain rfl := Host.Outcome.next.inj (hstep.symm.trans h)
    exact hs
  · obtain rfl := Host.Outcome.next.inj (hstep.symm.trans h)
    exact hs
  · rcases exec_mem (hstep.symm.trans h) with hmem | ⟨base, bytes, hlen, hmem⟩
    · rw [hmem]
      exact hs
    · rw [hmem]
      exact writeImage_wf hs hlen

theorem keyPress_mem (s : State) (k : Key) : (keyPress k s).mem = s.mem := by
  unfold keyPress
  split <;> rfl

theorem memoryCanonical_kept : KeptByParts fun s => s.mem.wf where
  setCycle _ _ hs := hs
  setEnv _ _ hs := hs
  tick _ hs := hs
  reset _ := reset_mem_wf
  load _ _ h hs := writeImage_wf hs (by unfold Config.memSize; omega)
  key s k hs := by rwa [keyPress_mem]
  instruction _ _ _ hs h := instructionStep_keeps_wf hs h

/-- Settles O10: memory changes only by blocks written inside it, and each write keeps the canonical form. -/
theorem stepKeepsMemoryCanonical : Obligations.StepKeepsMemoryCanonical :=
  fun _ _ hs h => memoryCanonical_kept.step hs h

/-! Pause. -/

/-- A core that is not paused has neither a condition nor a wait recorded. -/
theorem running_of_pauseConsistent {s : State} (hs : PauseConsistent s) (hpaused : s.paused = false) :
    s.fatal = none ∧ s.wait = none := by
  obtain ⟨hiff, _⟩ := hs
  simpa [hpaused] using hiff

theorem pauseConsistent_raiseFatal {s : State} (hwait : s.wait = none) (kind : FatalKind) :
    PauseConsistent (raiseFatal kind s) := by
  simp [PauseConsistent, hwait]

theorem pauseConsistent_beginWait {s : State} (hfatal : s.fatal = none) (x : Reg) : PauseConsistent (s.beginWait x) := by
  simp [PauseConsistent, hfatal]

/-- The invariant speaks of three parts of the state. -/
theorem PauseConsistent.of_frame {ps : List Part} {s t : State} (hs : PauseConsistent s) (h : UnchangedBut ps s t)
    (hpaused : .paused ∉ ps) (hfatal : .fatal ∉ ps) (hwait : .wait ∉ ps) : PauseConsistent t := by
  have hp : t.paused = s.paused := h .paused hpaused
  have hf : t.fatal = s.fatal := h .fatal hfatal
  have hw : t.wait = s.wait := h .wait hwait
  rwa [PauseConsistent, hp, hf, hw]

/-- Only the key wait pauses or waits where it completes. -/
theorem pause_not_mem_completionParts {i : Instr} (h : ∀ x, i ≠ .waitKey x) (s : State) :
    .paused ∉ i.completionParts s ∧ .wait ∉ i.completionParts s := by
  cases i
  case waitKey x => exact absurd rfl (h x)
  all_goals simp [Instr.completionParts, Instr.mayWrite]

theorem exec_keeps_pauseConsistent {i : Instr} {s t : State} (hs : PauseConsistent s) (hpaused : s.paused = false)
    (h : exec i s = .next t) : PauseConsistent t := by
  obtain ⟨hfatal, hwait⟩ := running_of_pauseConsistent hs hpaused
  rcases exec_next_cases h with ⟨kind, _, rfl⟩ | ⟨_, hframe⟩
  · exact pauseConsistent_raiseFatal hwait kind
  · by_cases hi : ∃ x, i = .waitKey x
    · obtain ⟨x, rfl⟩ := hi
      obtain rfl := Host.Outcome.next.inj h
      exact pauseConsistent_beginWait hfatal x
    · obtain ⟨hp, hw⟩ := pause_not_mem_completionParts (not_exists.mp hi) s
      exact hs.of_frame hframe hp (fatal_not_mem_completionParts i s) hw

theorem instructionStep_keeps_pauseConsistent {s t : State} (hpaused : s.paused = false) (hs : PauseConsistent s)
    (h : instructionStep s = .next t) : PauseConsistent t := by
  have hwait := (running_of_pauseConsistent hs hpaused).2
  rcases instructionStep_cases s with hstep | ⟨_, hstep | ⟨i, hstep⟩⟩
  · obtain rfl := Host.Outcome.next.inj (hstep.symm.trans h)
    exact pauseConsistent_raiseFatal hwait _
  · obtain rfl := Host.Outcome.next.inj (hstep.symm.trans h)
    exact pauseConsistent_raiseFatal (s := s.advancePc) hwait _
  · exact exec_keeps_pauseConsistent (s := s.advancePc) hs hpaused (hstep.symm.trans h)

/-- A key resumes only a core that waits for it, and such a core has no condition recorded. -/
theorem keyPress_keeps_pauseConsistent {s : State} (hs : PauseConsistent s) (k : Key) : PauseConsistent (keyPress k s) := by
  cases hwait : s.wait with
  | none => rwa [keyPress_ignored hwait]
  | some x =>
    have hfatal : s.fatal = none := hs.2.resolve_right (by simp [hwait])
    rw [keyPress_waiting hwait]
    simp [PauseConsistent, afterKey, hfatal]

theorem pauseConsistent_reset : PauseConsistent State.reset := by decide

theorem pauseConsistent_kept : KeptByParts PauseConsistent where
  setCycle _ _ hs := hs
  setEnv _ _ hs := hs
  tick _ hs := hs
  reset _ := pauseConsistent_reset
  load _ _ _ hs := hs
  key _ k hs := keyPress_keeps_pauseConsistent hs k
  instruction _ _ hpaused hs h := instructionStep_keeps_pauseConsistent hpaused hs h

/-- A core halted on a fatal condition waits for no key (spec R26). -/
theorem wait_eq_none_of_fatal {s : State} (hs : PauseConsistent s) (hfatal : s.fatal ≠ none) : s.wait = none :=
  hs.2.resolve_left hfatal

/-- Settles O11: reset meets the invariant, every part of a step keeps it, and with no wait pending a key is ignored. -/
theorem pauseInvariantHolds : Obligations.PauseInvariantHolds :=
  ⟨pauseConsistent_reset, fun _ _ hs h => pauseConsistent_kept.step hs h,
    fun _ k hs hfatal => keyPress_ignored (wait_eq_none_of_fatal hs hfatal) k⟩

/-! Addresses. -/

/-- The bound speaks of two parts of the state. -/
theorem AddressesBounded.of_frame {ps : List Part} {s t : State} (hs : AddressesBounded s) (h : UnchangedBut ps s t)
    (hpc : .pc ∉ ps) (hstack : .stack ∉ ps) : AddressesBounded t := by
  have hp : t.pc = s.pc := h .pc hpc
  have hk : t.stack = s.stack := (h .stack hstack).2
  rwa [AddressesBounded, hp, hk]

/-- A new program counter within the bound keeps it. -/
theorem AddressesBounded.of_pc {ps : List Part} {s t : State} (hs : AddressesBounded s) (h : UnchangedBut ps s t)
    (hstack : .stack ∉ ps) (hpc : t.pc.toNat ≤ 0x10FE) : AddressesBounded t := by
  have hk : t.stack = s.stack := (h .stack hstack).2
  exact ⟨hpc, by rw [hk]; exact hs.2⟩

theorem toNat_add_two {a : Addr} {n : Nat} (h : a.toNat ≤ n) (hn : n < 65534) : (a + 2).toNat ≤ n + 2 := by
  have hadd : (a + 2).toNat = (a.toNat + 2) % 65536 := BitVec.toNat_add a 2
  omega

/-- From just after a fetch inside memory every instruction keeps the bound: jumps are bounded by their operands, skips by 2,
returns by the stack, and a call pushes an address of memory. -/
theorem exec_keeps_addressesBounded {i : Instr} {s t : State} (hs : AddressesBounded s) (hpc : s.pc.toNat ≤ 0x1000)
    (h : exec i s = .next t) : AddressesBounded t := by
  rcases exec_next_cases h with ⟨kind, _, rfl⟩ | ⟨hnone, hframe⟩
  · exact hs
  cases i
  case jump nnn =>
    obtain rfl := Host.Outcome.next.inj h
    have htarget := addrOfImm_toNat nnn
    exact hs.of_pc hframe (by simp [Instr.completionParts, Instr.mayWrite]) (by rw [State.setPc_pc]; omega)
  case jumpV0 nnn =>
    obtain rfl := Host.Outcome.next.inj h
    have htarget := indexedTarget_toNat nnn (s.reg 0)
    exact hs.of_pc hframe (by simp [Instr.completionParts, Instr.mayWrite]) (by rw [State.setPc_pc]; omega)
  case call nnn =>
    obtain ⟨hdepth, rfl⟩ := completion_call hnone h
    have htarget := addrOfImm_toNat nnn
    refine ⟨by simp only [afterCall]; omega, fun k => ?_⟩
    simp only [afterCall, Vector.getElem_set]
    split
    · omega
    · exact hs.2 k
  case ret =>
    obtain ⟨hdepth, rfl⟩ := completion_ret hnone h
    exact ⟨hs.2 ⟨s.depth.val - 1, by omega⟩, hs.2⟩
  case skipEqImm | skipNeImm | skipEqReg | skipNeReg | skipKey | skipNotKey =>
    obtain rfl := Host.Outcome.next.inj h
    refine hs.of_pc hframe (by simp [Instr.completionParts, Instr.mayWrite]) ?_
    have hskip := toNat_add_two hpc (by decide)
    rw [State.skipIf_pc]
    split
    · exact hskip.trans (by decide)
    · exact hs.1
  all_goals
    exact hs.of_frame hframe (by simp [Instr.completionParts, Instr.mayWrite])
      (by simp [Instr.completionParts, Instr.mayWrite])

theorem instructionStep_keeps_addressesBounded {s t : State} (hs : AddressesBounded s) (h : instructionStep s = .next t) :
    AddressesBounded t := by
  rcases instructionStep_cases s with hstep | ⟨hpc, hcase⟩
  · obtain rfl := Host.Outcome.next.inj (hstep.symm.trans h)
    exact hs
  · have hadvanced : s.advancePc.pc.toNat ≤ 0x1000 := toNat_add_two hpc (by decide)
    have hbound : AddressesBounded s.advancePc := ⟨hadvanced.trans (by decide), hs.2⟩
    rcases hcase with hstep | ⟨i, hstep⟩
    · obtain rfl := Host.Outcome.next.inj (hstep.symm.trans h)
      exact hbound
    · exact exec_keeps_addressesBounded hbound hadvanced (hstep.symm.trans h)

theorem keyPress_keeps_addressesBounded {s : State} (hs : AddressesBounded s) (k : Key) :
    AddressesBounded (keyPress k s) := by
  cases hwait : s.wait with
  | none => rwa [keyPress_ignored hwait]
  | some x => rwa [keyPress_waiting hwait]

theorem addressesBounded_reset : AddressesBounded State.reset := by decide

theorem addressesBounded_kept : KeptByParts AddressesBounded where
  setCycle _ _ hs := hs
  setEnv _ _ hs := hs
  tick _ hs := hs
  reset _ := addressesBounded_reset
  load _ _ _ hs := hs
  key _ k hs := keyPress_keeps_addressesBounded hs k
  instruction _ _ _ hs h := instructionStep_keeps_addressesBounded hs h

/-- Settles O12: the bound on `pc` and on the stack's slots is kept by every part of a step. -/
theorem stepKeepsAddressesBounded : Obligations.StepKeepsAddressesBounded :=
  fun _ _ hs h => addressesBounded_kept.step hs h

/-- Settles O13: the three invariants at reset. -/
theorem resetMeetsTheInvariants : Obligations.ResetMeetsTheInvariants :=
  ⟨reset_mem_wf, pauseConsistent_reset, addressesBounded_reset⟩

end Sys2Proof
end

section
/-! The end of a cycle (spec 40_cycle.md R82, R90, R91): the tick, and the status it returns. -/

namespace Sys2Proof.Machine

@[simp] theorem countDown_toNat (t : Byte) : (countDown t).toNat = t.toNat - 1 := by
  unfold countDown
  split
  · exact (BitVec.toNat_ofNat _ 8).trans (Nat.mod_eq_of_lt (by omega))
  · omega

theorem audioRequest_countDown (sound : Byte) :
    audioRequest (countDown sound) = if sound.toNat - 1 > 0 then .audioStartTone else .audioStopTone := by
  rw [audioRequest, countDown_toNat]

/-- While paused the end of a cycle only answers the status (spec R91). -/
theorem endCycle_paused {s : State} (h : s.paused = true) : endCycle s = s.setEnv (s.env.answer (.status (status s))) := by
  simp only [endCycle, h, if_true]

/-- While running the end of a cycle ticks and answers the status, which a tick does not change (spec R90). -/
theorem endCycle_running {s : State} (h : s.paused = false) :
    endCycle s = (tick s).setEnv ((tick s).env.answer (.status (status s))) := by
  simp only [endCycle, h, Bool.false_eq_true, if_false]
  rfl

end Sys2Proof.Machine

namespace Sys2Proof

open Machine

/-- Frame of an answer to the host (spec R202 to R204). -/
theorem answer_unchangedBut (s : State) (r : HostReply) : UnchangedBut [.trace] s (s.setEnv (s.env.answer r)) :=
  setEnv_unchangedBut (by simp [envParts, Part.same])

/-- Frame of a tick (spec R90). -/
theorem tick_unchangedBut (s : State) : UnchangedBut [.delay, .sound, .trace] s (tick s) :=
  (((setDelay_unchangedBut s _).mono (by simp)).trans ((setSound_unchangedBut _ _).mono (by simp))).trans
    (setEnv_unchangedBut (by simp [envParts, Part.same]))

/-- The two requests of a tick, and the answer of the cycle it ends. -/
def tickEvents (s : State) : List Event :=
  [.request (if s.sound.toNat - 1 > 0 then .audioStartTone else .audioStopTone), .request .framePresent,
    .reply (.status (status s))]

/-- The end of a cycle of a running core counts both timers down and records the events of the tick. -/
theorem endCycle_counts {s : State} (h : s.paused = false) :
    (endCycle s).delay.toNat = s.delay.toNat - 1 ∧ (endCycle s).sound.toNat = s.sound.toNat - 1 ∧
      (endCycle s).env.trace = s.env.trace ++ tickEvents s ∧ UnchangedBut [.delay, .sound, .trace] s (endCycle s) := by
  rw [endCycle_running h]
  refine ⟨countDown_toNat s.delay, countDown_toNat s.sound, ?_, ?_⟩
  · simp [tick, audioRequest_countDown, tickEvents]
  · exact (tick_unchangedBut s).trans ((answer_unchangedBut _ _).mono (by simp))

theorem status_of_paused {s : State} (h : s.paused = true) :
    status s = match s.fatal with | some kind => .halted kind | none => .blockedOnKey := by
  unfold status
  cases s.fatal with
  | none => simp only [h, if_true]
  | some kind => rfl

/-- Settles O14: a paused core's step inside a cycle is the end of the cycle, which only answers. -/
theorem pausedCycleOnlyReturnsItsStatus : Obligations.PausedCycleOnlyReturnsItsStatus := by
  intro s k hcycle hpaused
  refine ⟨_, step_endCycle hcycle (.inr hpaused), rfl, ?_, ?_⟩ <;> rw [endCycle_paused hpaused]
  · rw [status_of_paused hpaused]
    rfl
  · exact ((answer_unchangedBut s _).mono (by simp)).trans ((setCycle_unchangedBut _ none).mono (by simp))

/-- Settles O18: a running core at the end of its cycle ticks; having no condition recorded it answers `Completed`. -/
theorem tickCountsAndPresents : Obligations.TickCountsAndPresents := by
  intro s hs hcycle hpaused
  obtain ⟨hdelay, hsound, htrace, hframe⟩ := endCycle_counts hpaused
  have hstatus : status s = .completed := by
    simp [status, (running_of_pauseConsistent hs hpaused).1, hpaused]
  rw [tickEvents, hstatus] at htrace
  exact ⟨_, step_endCycle hcycle (.inl rfl), hdelay, hsound, rfl, htrace,
    (hframe.mono (by simp)).trans ((setCycle_unchangedBut _ none).mono (by simp))⟩

/-- Settles O19: a cycle of no instructions is the end of a cycle. -/
theorem runCycleOfZero : Obligations.RunCycleOfZero := by
  intro s
  refine ⟨fun hpaused => ⟨endCycle s, rfl, endCycle_counts hpaused⟩, fun hpaused => ⟨endCycle s, rfl, ?_⟩⟩
  rw [endCycle_paused hpaused]
  exact ⟨rfl, answer_unchangedBut s _⟩

/-- One tick presents once. -/
theorem count_framePresent_tickEvents (s : State) : (tickEvents s).count (.request .framePresent) = 1 := by
  unfold tickEvents
  split <;> rfl

/-- One tick asks for the tone while the sound timer is above 1. -/
theorem count_audioStartTone_tickEvents (s : State) :
    (tickEvents s).count (.request .audioStartTone) = min 1 (s.sound.toNat - 1) := by
  unfold tickEvents
  split
  · next h => rw [Nat.min_eq_left h]; rfl
  · next h => rw [Nat.eq_zero_of_not_pos h]; rfl

/-- Settles O20: by induction on the cycles; each ticks once and leaves the core running. -/
theorem timersFallByOnePerCycle : Obligations.TimersFallByOnePerCycle := by
  intro k
  induction k with
  | zero => exact fun s _ => ⟨s, rfl, rfl, rfl, [], by simp⟩
  | succ k ih =>
    intro s hpaused
    obtain ⟨hdelay, hsound, htrace, hframe⟩ := endCycle_counts hpaused
    obtain ⟨t, hrun, hd, hs, evs, ht, hpresent, htone⟩ := ih (endCycle s) ((hframe .paused (by simp)).trans hpaused)
    refine ⟨t, hrun, by omega, by omega, tickEvents s ++ evs, ?_, ?_, ?_⟩
    · rw [ht, htrace, List.append_assoc]
    · rw [List.count_append, count_framePresent_tickEvents, hpresent, Nat.add_comm]
    · rw [List.count_append, count_audioStartTone_tickEvents, htone, hsound]
      omega

end Sys2Proof
end

section
/-! Loading and halting (spec 40_cycle.md R92, 60_exceptions.md R242): what a load writes, and what a halted core ignores. -/

namespace Sys2Proof

open Machine

theorem loadProgram_fits_unchangedBut {image : List Byte} (h : image.length ≤ 3584) (s : State) :
    UnchangedBut (.trace :: byteParts 0x200 image.length) s (loadProgram image s) := by
  rw [loadProgram_fits h]
  exact ((writeImage_unchangedBut s 0x200 image).mono (by simp +contextual)).trans
    ((answer_unchangedBut _ .loaded).mono (by simp))

theorem loadProgram_refused_unchangedBut {image : List Byte} (h : 3584 < image.length) (s : State) :
    UnchangedBut [.trace] s (loadProgram image s) := by
  rw [loadProgram_refused h]
  exact answer_unchangedBut s .loadTooLarge

/-- A longer block of bytes has every part of a shorter one. -/
theorem byteParts_subset {base m n : Nat} (h : m ≤ n) : ∀ p ∈ byteParts base m, p ∈ byteParts base n := by
  intro p hp
  obtain ⟨a, hlo, hhi, rfl⟩ := mem_byteParts.mp hp
  exact mem_byteParts.mpr ⟨a, hlo, by omega, rfl⟩

/-- Whatever the image, a load writes nothing below 0x200 and nothing but memory and the reply. -/
theorem loadProgram_unchangedBut (image : List Byte) (s : State) :
    UnchangedBut (.trace :: byteParts 0x200 3584) s (loadProgram image s) := by
  rcases Nat.lt_or_ge 3584 image.length with h | h
  · exact (loadProgram_refused_unchangedBut h s).mono (by simp)
  · exact (loadProgram_fits_unchangedBut h s).mono (List.cons_subset_cons _ (byteParts_subset h))

/-- Settles O23: the step is the pending load, which writes the image whole or not at all. -/
theorem loadProgramCopiesOrRefuses : Obligations.LoadProgramCopiesOrRefuses := by
  intro s image rest hcycle hops
  have hstep := step_hostOperation hcycle hops
  have hqueue := setHostOps_unchangedBut s rest
  refine ⟨fun h => ⟨_, hstep, ?_, ?_, ?_, ?_⟩, fun h => ⟨_, hstep, ?_, ?_, ?_⟩⟩
  · intro k
    rw [hostOperation, loadProgram_fits h]
    exact read_writeImage_at s.mem 0x200 k.isLt
  · rw [hostOperation, loadProgram_fits h]
    rfl
  · rw [hostOperation, loadProgram_fits h]
    rfl
  · exact (hqueue.mono (by simp)).trans
      ((loadProgram_fits_unchangedBut h _).mono fun p hp => List.mem_cons_of_mem _ hp)
  · rw [hostOperation, loadProgram_refused h]
    rfl
  · rw [hostOperation, loadProgram_refused h]
    rfl
  · exact (hqueue.mono (by simp)).trans ((loadProgram_refused_unchangedBut h _).mono (by simp))

theorem cycleLoop_paused {s : State} (h : s.paused = true) (n : Nat) : cycleLoop n s = .next s := by
  cases n with
  | zero => rfl
  | succ n => simp only [cycleLoop, h, if_true]

theorem runCycle_paused {s : State} (h : s.paused = true) (n : Nat) :
    runCycle n s = .next (s.setEnv (s.env.answer (.status (status s)))) := by
  rw [runCycle, cycleLoop_paused h, andThen_next, endCycle_paused h]

theorem paused_of_fatal {s : State} {kind : FatalKind} (hs : PauseConsistent s) (h : s.fatal = some kind) :
    s.paused = true := hs.1.mpr (.inl (by simp [h]))

/-- Settles O15: a halted core is paused and waits for no key. -/
theorem haltedCoreIgnoresAllButReset : Obligations.HaltedCoreIgnoresAllButReset := by
  intro s kind hs hfatal
  have hstatus : status s = .halted kind := by simp only [status, hfatal]
  have hwait := wait_eq_none_of_fatal hs (by simp [hfatal])
  refine ⟨fun n => ⟨_, runCycle_paused (paused_of_fatal hs hfatal) n, ?_, answer_unchangedBut s _⟩,
    fun k => keyPress_ignored hwait k, fun image => loadProgram_unchangedBut image s⟩
  rw [hstatus]
  rfl

/-- What may change while a core stays halted: the progress and the record of the host's operations, and memory by a load. -/
def haltedParts : List Part := .cycle :: .hostOps :: .trace :: byteParts 0x200 3584

/-- A host operation other than a reset keeps a halted core as it is but for those parts. -/
theorem hostOperation_halted {s : State} (hwait : s.wait = none) {op : HostOp} (hop : op ≠ .reset) :
    UnchangedBut haltedParts s (hostOperation op s) := by
  cases op with
  | reset => exact absurd rfl hop
  | loadProgram image => exact (loadProgram_unchangedBut image s).mono (by simp +contextual [haltedParts])
  | runCycle n => exact (setCycle_unchangedBut s _).mono (by simp [haltedParts])
  | keyPress k =>
    rw [hostOperation, keyPress_ignored hwait]
    exact .refl _ s

/-- A host operation leaves the queue it was taken from. -/
theorem hostOperation_hostOps (op : HostOp) (s : State) : (hostOperation op s).env.hostOps = s.env.hostOps := by
  cases op with
  | reset | runCycle => rfl
  | loadProgram image => exact loadProgram_unchangedBut image s .hostOps (by simp)
  | keyPress k =>
    cases hwait : s.wait with
    | none => rw [hostOperation, keyPress_ignored hwait]
    | some x => rw [hostOperation, keyPress_waiting hwait]; rfl

/-- One step of a halted core with no reset to come: it stays as it is but for those parts, and no reset comes to the queue. -/
theorem step_halted {s t : State} {kind : FatalKind} (hs : PauseConsistent s) (hfatal : s.fatal = some kind)
    (hreset : HostOp.reset ∉ s.env.hostOps) (h : step s = .next t) :
    UnchangedBut haltedParts s t ∧ HostOp.reset ∉ t.env.hostOps := by
  have hpaused := paused_of_fatal hs hfatal
  rcases step_cases s with hstep | ⟨op, rest, hops, hstep⟩ | hstep | ⟨hrunning, -⟩
  · obtain rfl := Host.Outcome.next.inj (hstep.symm.trans h)
    exact ⟨.refl _ s, hreset⟩
  · obtain rfl := Host.Outcome.next.inj (hstep.symm.trans h)
    rw [hops, List.mem_cons, not_or] at hreset
    have hwait := wait_eq_none_of_fatal hs (by simp [hfatal])
    refine ⟨((setHostOps_unchangedBut s rest).mono (by simp [haltedParts])).trans
      (hostOperation_halted (s := s.setEnv { s.env with hostOps := rest }) hwait (Ne.symm hreset.1)), ?_⟩
    rw [hostOperation_hostOps]
    exact hreset.2
  · obtain rfl := Host.Outcome.next.inj (hstep.symm.trans h)
    rw [endCycle_paused hpaused]
    exact ⟨((answer_unchangedBut s _).mono (by simp [haltedParts])).trans
      ((setCycle_unchangedBut _ none).mono (by simp [haltedParts])), hreset⟩
  · rw [hpaused] at hrunning
    cases hrunning

/-- Any number of steps of a halted core with no reset to come. -/
theorem runSteps_halted {k : Nat} {s t : State} {kind : FatalKind} (hs : PauseConsistent s) (hfatal : s.fatal = some kind)
    (hreset : HostOp.reset ∉ s.env.hostOps) (h : runSteps k s = .next t) : UnchangedBut haltedParts s t := by
  induction k generalizing s with
  | zero =>
    obtain rfl := Host.Outcome.next.inj h
    exact .refl _ s
  | succ k ih =>
    obtain ⟨u, hstep, hrun⟩ := andThen_eq_next h
    obtain ⟨hframe, hreset'⟩ := step_halted hs hfatal hreset hstep
    have hfatal' : u.fatal = some kind := (hframe .fatal (by simp [haltedParts])).trans hfatal
    exact hframe.trans (ih (pauseConsistent_kept.step hs hstep) hfatal' hreset' hrun)

/-- Settles O16: none of the parts named is among those that may change while the core stays halted. -/
theorem haltLastsUntilReset : Obligations.HaltLastsUntilReset := by
  intro k s t kind hs hfatal hreset h
  have hframe := runSteps_halted hs hfatal hreset h
  have same (p : Part) (hp : p ∉ haltedParts := by simp [haltedParts]) : p.same s t := hframe p hp
  obtain ⟨hdepth, hstack⟩ := same .stack
  exact ⟨(same .fatal).trans hfatal, (same .paused).trans (paused_of_fatal hs hfatal),
    (same .wait).trans (wait_eq_none_of_fatal hs (by simp [hfatal])), fun r => same (.reg r), same .index, same .pc, hdepth,
    hstack, same .delay, same .sound⟩

end Sys2Proof
end

section
/-! The refinement (spec 40_cycle.md R81): the steps of a cycle carry out `RunCycle(n)`. No instruction looks at the progress of
the cycle, so an instruction step inside the cycle is the one the whole operation takes. -/

namespace Sys2Proof

open Machine

theorem fatalCondition_setCycle (i : Instr) (s : State) (c : Option Nat) :
    i.fatalCondition (s.setCycle c) = i.fatalCondition s := by
  cases i <;> rfl

theorem skipIf_setCycle (s : State) (taken : Bool) (c : Option Nat) :
    (s.setCycle c).skipIf taken = (s.skipIf taken).setCycle c := by
  cases taken <;> rfl

/-- An instruction neither reads nor writes the progress of the cycle. -/
theorem exec_setCycle {i : Instr} {s t : State} (h : exec i s = .next t) (c : Option Nat) :
    exec i (s.setCycle c) = .next (t.setCycle c) := by
  rcases exec_next_cases h with ⟨kind, hkind, rfl⟩ | ⟨hnone, -⟩
  · exact exec_of_fatalCondition ((fatalCondition_setCycle i s c).trans hkind)
  cases i
  case ret =>
    obtain ⟨hdepth, rfl⟩ := completion_ret hnone h
    exact exec_ret (s := s.setCycle c) hdepth
  case call nnn =>
    obtain ⟨hdepth, rfl⟩ := completion_call hnone h
    exact exec_call (s := s.setCycle c) hdepth nnn
  case loadSpriteAddr x =>
    obtain ⟨hdigit, rfl⟩ := completion_loadSpriteAddr hnone h
    exact exec_loadSpriteAddr (s := s.setCycle c) hdigit
  case draw x y n =>
    obtain ⟨hrange, rfl⟩ := completion_draw hnone h
    exact exec_draw (s := s.setCycle c) hrange
  case storeBcd x =>
    obtain ⟨hrange, rfl⟩ := completion_storeBcd hnone h
    exact exec_storeBcd (s := s.setCycle c) hrange
  case storeRegs x =>
    obtain ⟨hrange, rfl⟩ := completion_storeRegs hnone h
    exact exec_storeRegs (s := s.setCycle c) hrange
  case loadRegs x =>
    obtain ⟨hrange, v, hv, rfl⟩ := completion_loadRegs hnone h
    obtain ⟨v', hexec, hv'⟩ := exec_loadRegs (s := s.setCycle c) hrange
    obtain rfl : v = v' := Vector.ext fun k hk => (hv ⟨k, hk⟩).trans (hv' ⟨k, hk⟩).symm
    exact hexec
  case skipEqImm | skipNeImm | skipEqReg | skipNeReg =>
    obtain rfl := Host.Outcome.next.inj h
    exact congrArg Host.Outcome.next (skipIf_setCycle s _ c)
  case skipKey x | skipNotKey x =>
    obtain rfl := Host.Outcome.next.inj h
    exact congrArg Host.Outcome.next (skipIf_setCycle (s.setEnv (s.env.askKeyCode (keyOfByte (s.reg x))).2) _ c)
  all_goals
    obtain rfl := Host.Outcome.next.inj h
    rfl

theorem dispatchBytes_setCycle {bytes : List Byte} {s t : State} (h : dispatchBytes bytes s = .next t) (c : Option Nat) :
    dispatchBytes bytes (s.setCycle c) = .next (t.setCycle c) := by
  unfold dispatchBytes at h ⊢
  split at h
  · exact exec_setCycle h c
  · obtain rfl := Host.Outcome.next.inj h
    rfl
  · obtain rfl := Host.Outcome.next.inj h
    rfl

theorem instructionStep_setCycle {s t : State} (h : instructionStep s = .next t) (c : Option Nat) :
    instructionStep (s.setCycle c) = .next (t.setCycle c) := by
  rcases Nat.lt_or_ge s.pc.toNat 4095 with hpc | hpc
  · have hin := instructionStep_in (s := s.setCycle c) (Nat.le_of_lt_succ hpc)
    rw [instructionStep_in (Nat.le_of_lt_succ hpc)] at h
    exact hin.trans (dispatchBytes_setCycle h c)
  · obtain rfl := Host.Outcome.next.inj ((instructionStep_out hpc).symm.trans h)
    exact instructionStep_out (s := s.setCycle c) hpc

theorem setCycle_of_cycle_eq {s : State} {c : Option Nat} (h : s.cycle = c) : s.setCycle c = s := by
  subst h
  rfl

/-- An instruction step leaves the progress of the cycle. -/
theorem instructionStep_cycle {s t : State} (h : instructionStep s = .next t) : t.cycle = s.cycle := by
  have hsame := instructionStep_setCycle h s.cycle
  rw [setCycle_of_cycle_eq rfl, h] at hsame
  exact (congrArg State.cycle (Host.Outcome.next.inj hsame)).trans (State.setCycle_cycle t s.cycle)

/-- The end of a cycle neither reads nor writes its progress. -/
theorem endCycle_setCycle (s : State) (c : Option Nat) : endCycle (s.setCycle c) = (endCycle s).setCycle c := by
  cases hpaused : s.paused with
  | true =>
    rw [endCycle_paused hpaused, endCycle_paused (s := s.setCycle c) hpaused]
    rfl
  | false =>
    rw [endCycle_running hpaused, endCycle_running (s := s.setCycle c) hpaused]
    rfl

theorem endCycle_cycle (s : State) : (endCycle s).cycle = s.cycle := by
  have hsame := endCycle_setCycle s s.cycle
  rw [setCycle_of_cycle_eq rfl] at hsame
  exact (congrArg State.cycle hsame).trans (State.setCycle_cycle _ s.cycle)

/-- The step that ends a cycle answers the end of the whole operation. -/
theorem runSteps_endCycle {s : State} {n : Nat} (hcycle : s.cycle = none) (hend : n = 0 ∨ s.paused = true) :
    runSteps 1 (s.setCycle (some n)) = .next (endCycle s) := by
  have hstep := step_endCycle (State.setCycle_cycle s (some n)) hend
  rw [runSteps, hstep, andThen_next, runSteps, endCycle_setCycle]
  exact congrArg Host.Outcome.next (setCycle_of_cycle_eq ((endCycle_cycle s).trans hcycle))

/-- From inside a cycle of `n` instructions the steps carry out the rest of `RunCycle(n)`: an instruction each, and its end. -/
theorem runSteps_refine_runCycle (n : Nat) {s : State} (hcycle : s.cycle = none) :
    ∃ k, k ≤ n + 1 ∧ runSteps k (s.setCycle (some n)) = runCycle n s := by
  induction n generalizing s with
  | zero => exact ⟨1, le_rfl, runSteps_endCycle hcycle (.inl rfl)⟩
  | succ n ih =>
    cases hpaused : s.paused with
    | true =>
      refine ⟨1, by omega, (runSteps_endCycle hcycle (.inr hpaused)).trans ?_⟩
      rw [runCycle, cycleLoop_paused hpaused, andThen_next]
    | false =>
      obtain ⟨t, ht⟩ := instructionStep_next s
      obtain ⟨k, hk, hrun⟩ := ih ((instructionStep_cycle ht).trans hcycle)
      have hstep : step (s.setCycle (some (n + 1))) = .next (t.setCycle (some n)) :=
        (step_instruction (State.setCycle_cycle s _) hpaused).trans (instructionStep_setCycle ht (some n))
      have hloop : runCycle (n + 1) s = runCycle n t := by
        simp [runCycle, cycleLoop, hpaused, ht]
      exact ⟨k + 1, by omega, by rw [runSteps, hstep, andThen_next, hrun, hloop]⟩

/-- Settles O17: the first step begins the cycle, and the steps inside it carry out the rest. -/
theorem stepsRefineRunCycle : Obligations.StepsRefineRunCycle := by
  intro n s rest hcycle hops
  obtain ⟨k, hk, hrun⟩ := runSteps_refine_runCycle n (s := s.setEnv { s.env with hostOps := rest }) hcycle
  refine ⟨k + 1, by omega, ?_⟩
  rw [runSteps, step_hostOperation hcycle hops, andThen_next]
  exact hrun

end Sys2Proof
end
